-- ==== Sys2Proof/Word.lean ====
section
/-! DEFINITION. The two word types of the block: the 32-bit operation word (30_encoding.md R90) and the 16-bit value
that crosses the Host interface (00_scope.md R14). -/

namespace Sys2Proof

/-- An operation word, `op[31:28] sel[27:24] rsv[23:16] data[15:0]` (R90). -/
abbrev Word := BitVec 32

/-- A 16-bit register, operand or result (R11, R14, R74). -/
abbrev Half := BitVec 16

end Sys2Proof
end

