-- ==== Sys2Proof/Config.lean ====
section
/-! DEFINITION. The configuration record of 00_scope.md R8, the value the spec takes for each parameter, and the two
parameters it leaves OPEN. -/

namespace Sys2Proof

/-- The configuration record (R8). It stays fixed for a whole run and no operation writes it.
The state carries it as plain data, so a claim about every state is a claim about every configuration (log entry 7). -/
structure Config where
  /-- `TICK_PERIOD_US`, informative: no rule reads it (R8, R285). -/
  tickPeriodUs : Nat
  /-- `tick_period_ms`, informative: no rule reads it (R8). -/
  tickPeriodMs : Nat
  /-- `TICK_MODULUS` -/
  tickModulus : Nat
  /-- `DIV_50MS` -/
  div50ms : Nat
  /-- `DIV_100MS`, also the speed sample cadence -/
  div100ms : Nat
  /-- `DIV_1S` -/
  div1s : Nat
  /-- `SAMPLE_PERIOD_MS` -/
  samplePeriodMs : Nat
  /-- `DEBOUNCE_TICKS`, the debounce window N -/
  debounceTicks : Nat
  /-- `KEY_ACTIVE_LEVEL`, the raw key level that means "pressed" -/
  keyActiveLevel : Bool
  /-- `PORT_BITS`, the width of the port snapshot -/
  portBits : Nat
  /-- `PIN_W1A` -/
  pinW1A : Nat
  /-- `PIN_W1B` -/
  pinW1B : Nat
  /-- `PIN_W2A` -/
  pinW2A : Nat
  /-- `PIN_W2B` -/
  pinW2B : Nat
  /-- `PIN_KEY` -/
  pinKey : Nat
  /-- `MON_MASK`, the snapshot bits whose change raises the port pending flag (log entry 11) -/
  monMask : Half
  /-- `POS_BITS`, 16 in every admissible configuration (R9) -/
  posBits : Nat
  /-- `SPEED_BITS`, 16 in every admissible configuration (R9) -/
  speedBits : Nat
  /-- `TICKS_PER_REV`, OPEN -/
  ticksPerRev : Nat
  /-- `WHEEL_CIRC_MM`, OPEN -/
  wheelCircMm : Nat
  /-- `DUTY_IN_BITS` -/
  dutyInBits : Nat
  /-- `PWM_RES_BITS` -/
  pwmResBits : Nat
  /-- `MAX_DUTY` -/
  maxDuty : Nat
  deriving DecidableEq, Repr

/-- The value column of R8, with the two OPEN parameters as arguments ("a parameter the model takes as an argument"). -/
def Config.withOpen (ticksPerRev wheelCircMm : Nat) : Config where
  tickPeriodUs := 5020
  tickPeriodMs := 5
  tickModulus := 200
  div50ms := 10
  div100ms := 20
  div1s := 200
  samplePeriodMs := 100
  debounceTicks := 2
  keyActiveLevel := true
  portBits := 8
  pinW1A := 1
  pinW1B := 0
  pinW2A := 3
  pinW2B := 2
  pinKey := 4
  monMask := 0x1F#16
  posBits := 16
  speedBits := 16
  ticksPerRev := ticksPerRev
  wheelCircMm := wheelCircMm
  dutyInBits := 10
  pwmResBits := 8
  maxDuty := 1023

/-- Free value (log entry 8): one less than the OPEN parameter `TICKS_PER_REV`, which R9 requires to be at least 1.
DESIGN CHOICE: an unknown constant, safe: nothing can be proved of its value. -/
opaque Config.openTicksPerRevPred : Nat

/-- Free value (log entry 8): the OPEN parameter `WHEEL_CIRC_MM`, at least 0 (R9).
DESIGN CHOICE: an unknown constant, safe: nothing can be proved of its value. -/
opaque Config.openWheelCircMm : Nat

/-- The configuration the spec takes (R8), its two OPEN parameters free. -/
def Config.spec : Config := Config.withOpen (Config.openTicksPerRevPred + 1) Config.openWheelCircMm

end Sys2Proof
end

