-- ==== Sys2Proof/Syntax.lean ====
section
/-! DEFINITION. The fourteen operations of 30_encoding.md R91, the agent each belongs to, and the two identifiers that
wheels and PWM channels share. -/

namespace Sys2Proof

/-- An operation of the block, one constructor a row of the opcode map (R91, R92). Operands are the fields the row leaves
open, not scaled or shifted (R94). -/
inductive Instr where
  /-- `EV_TIMER` (R120) -/
  | evTimer
  /-- `EV_PINS v` (R160): the new pin levels, `PORT_BITS` bits wide (R92) -/
  | evPins (v : Half)
  /-- `EV_PWM_CYCLE` (R182) -/
  | evPwmCycle
  /-- `SVC_TICK` (R121) -/
  | svcTick
  /-- `SVC_PORT` (R161) -/
  | svcPort
  /-- `RD_TICK` (R123) -/
  | rdTick
  /-- `RD_POS w` (R165): `sel`, any of 0 to 15 decodes (R93) -/
  | rdPos (w : BitVec 4)
  /-- `RD_SPEED w` (R202): `sel`, any of 0 to 15 decodes (R93) -/
  | rdSpeed (w : BitVec 4)
  /-- `RD_KEY` (R143) -/
  | rdKey
  /-- `SET_DUTY c, d` (R180): `sel`, any of 0 to 15 decodes (R93), and the 16-bit pattern of the signed duty (R94) -/
  | setDuty (c : BitVec 4) (d : Half)
  /-- `PWM_INIT p` (R181) -/
  | pwmInit (p : Half)
  /-- `SET_IE b` (R220) -/
  | setIe (b : Bool)
  /-- `RD_STATUS` (R221) -/
  | rdStatus
  /-- `RD_EVENTS` (R124) -/
  | rdEvents
  deriving DecidableEq, Repr

/-- The five agents (R6). -/
inductive Agent where
  /-- the hardware tick timer -/
  | timer
  /-- the external pins -/
  | port
  /-- the PWM carrier period timer -/
  | pwmTimer
  /-- the block's own interrupt-context service logic -/
  | block
  /-- the main loop -/
  | host
  deriving DecidableEq, Repr

/-- The agent column of the opcode map, which is normative (R6, R91). -/
def Instr.agent : Instr → Agent
  | .evTimer => .timer
  | .evPins _ => .port
  | .evPwmCycle => .pwmTimer
  | .svcTick => .block
  | .svcPort => .block
  | .rdTick => .host
  | .rdPos _ => .host
  | .rdSpeed _ => .host
  | .rdKey => .host
  | .setDuty _ _ => .host
  | .pwmInit _ => .host
  | .setIe _ => .host
  | .rdStatus => .host
  | .rdEvents => .host

/-- The two fixed identifiers, 1 and 2, of wheels and of PWM channels (R8, R93). -/
inductive Ident where
  /-- wheel or channel 1 -/
  | one
  /-- wheel or channel 2 -/
  | two
  deriving DecidableEq, Repr

end Sys2Proof
end

