-- ==== Sys2Proof/WellFormed.lean ====
section
/-! DEFINITION. What the assembler accepts as an operation (30_encoding.md R98), which operations carry a legal `sel`
(R93), and which configurations are admissible (00_scope.md R9). -/

namespace Sys2Proof

/-- The operand ranges of R98 that the operand types do not already give: an `EV_PINS` value fits `PORT_BITS` bits.
A `sel` of 0 or 3 to 15 is accepted: it faults at run time (R93). -/
def Instr.wellFormed (portBits : Nat) : Instr → Bool
  | .evPins v => decide (v.toNat < 2 ^ portBits)
  | .evTimer => true
  | .evPwmCycle => true
  | .svcTick => true
  | .svcPort => true
  | .rdTick => true
  | .rdPos _ => true
  | .rdSpeed _ => true
  | .rdKey => true
  | .setDuty _ _ => true
  | .pwmInit _ => true
  | .setIe _ => true
  | .rdStatus => true
  | .rdEvents => true

/-- The legal identifiers: 1 and 2 (R93). -/
def legalSel (sel : BitVec 4) : Bool := sel == 1#4 || sel == 2#4

/-- The operation passes the `sel` check of R93 (an operation without a `sel` operand has none to fail). -/
def Instr.selLegal : Instr → Bool
  | .rdPos w => legalSel w
  | .rdSpeed w => legalSel w
  | .setDuty c _ => legalSel c
  | .evTimer => true
  | .evPins _ => true
  | .evPwmCycle => true
  | .svcTick => true
  | .svcPort => true
  | .rdTick => true
  | .rdKey => true
  | .pwmInit _ => true
  | .setIe _ => true
  | .rdStatus => true
  | .rdEvents => true

/-- The five pin positions, in the order of R8. -/
def Config.pins (c : Config) : List Nat := [c.pinW1A, c.pinW1B, c.pinW2A, c.pinW2B, c.pinKey]

/-- R9, first two bullets. `TICK_MODULUS >= 1` is DEDUCED from R11 and R51 item 1 (log entry 10). -/
def Config.divisorsOk (c : Config) : Bool :=
  decide (1 ≤ c.div50ms ∧ 1 ≤ c.div100ms ∧ 1 ≤ c.div1s ∧ 1 ≤ c.tickModulus ∧ c.tickModulus ≤ 65536 ∧
    c.tickModulus % c.div50ms = 0 ∧ c.tickModulus % c.div100ms = 0 ∧ c.tickModulus % c.div1s = 0)

/-- R9, third bullet. -/
def Config.debounceOk (c : Config) : Bool := decide (1 ≤ c.debounceTicks ∧ c.debounceTicks ≤ 255)

/-- R9, fourth bullet: distinct pins, each inside a port of at most 16 bits. -/
def Config.pinsOk (c : Config) : Bool :=
  decide (c.pins.Nodup ∧ (∀ p ∈ c.pins, p < c.portBits) ∧ c.portBits ≤ 16)

/-- R9, fifth bullet (`WHEEL_CIRC_MM >= 0` holds of every natural number). -/
def Config.speedOk (c : Config) : Bool := decide (1 ≤ c.ticksPerRev ∧ 1 ≤ c.samplePeriodMs)

/-- R9, sixth and seventh bullets. -/
def Config.dutyOk (c : Config) : Bool :=
  decide (1 ≤ c.pwmResBits ∧ c.pwmResBits ≤ c.dutyInBits ∧ c.dutyInBits ≤ 15 ∧ c.maxDuty ≤ 2 ^ c.dutyInBits - 1)

/-- R9, eighth bullet: the 16-bit result path of R14. -/
def Config.widthsOk (c : Config) : Bool := decide (c.posBits = 16 ∧ c.speedBits = 16)

/-- An admissible configuration (R9). Any other is refused: there is no run. -/
def Config.admissible (c : Config) : Bool :=
  c.divisorsOk && (c.debounceOk && (c.pinsOk && (c.speedOk && (c.dutyOk && c.widthsOk))))

end Sys2Proof
end

