-- ==== Sys2Proof/Decode.lean ====
section
/-! DEFINITION. Decoding and encoding of operation words (30_encoding.md R90 to R97), and the order of a word's bytes in
transport (20_memory.md R72). -/

namespace Sys2Proof

/-- Field `op`, bits 31:28 (R90). -/
def opField (w : Word) : BitVec 4 := w.extractLsb' 28 4

/-- Field `sel`, bits 27:24 (R90). -/
def selField (w : Word) : BitVec 4 := w.extractLsb' 24 4

/-- Field `rsv`, bits 23:16 (R90). -/
def rsvField (w : Word) : BitVec 8 := w.extractLsb' 16 8

/-- Field `data`, bits 15:0 (R90). -/
def dataField (w : Word) : Half := w.extractLsb' 0 16

/-- A word from its four fields (R90). -/
def mkWord (op sel : BitVec 4) (rsv : BitVec 8) (data : Half) : Word := op ++ sel ++ rsv ++ data

/-- Why a word is rejected: there is one reason (R95, R241 code 1). -/
inductive DecodeError where
  /-- `ILLEGAL_ENCODING`: the word matches no row of R92. Safe: the run stops with a fault where a device might ignore the word. -/
  | illegalEncoding
  deriving DecidableEq, Repr

/-- A row of the table of R92: a word `x` matches it when `(x and mask) = match`; `build` reads the operands of R94. -/
structure OpRow where
  /-- the row's mnemonic -/
  mnemonic : String
  /-- the row's `match` value -/
  fixedBits : Word
  /-- the row's `mask` value -/
  mask : Word
  /-- the operation of a word that matches -/
  build : Word → Instr

/-- R92: `(x and mask) = match`. -/
def OpRow.matchesWord (r : OpRow) (x : Word) : Bool := x &&& r.mask == r.fixedBits

/-- The mask of `EV_PINS`: every bit but the pin bits `PORT_BITS-1:0` (R92); 0xFFFFFF00 at the default 8 (log entry 12). -/
def pinsMask (portBits : Nat) : Word := BitVec.ofNat 32 (2 ^ 32 - 2 ^ portBits)

/-- The fourteen rows of R92. -/
def opTable (portBits : Nat) : List OpRow :=
  [ ⟨"EV_TIMER", 0x10000000#32, 0xFFFFFFFF#32, fun _ => .evTimer⟩,
    ⟨"EV_PINS", 0x20000000#32, pinsMask portBits, fun x => .evPins (dataField x)⟩,
    ⟨"EV_PWM_CYCLE", 0x30000000#32, 0xFFFFFFFF#32, fun _ => .evPwmCycle⟩,
    ⟨"SVC_TICK", 0x40000000#32, 0xFFFFFFFF#32, fun _ => .svcTick⟩,
    ⟨"SVC_PORT", 0x50000000#32, 0xFFFFFFFF#32, fun _ => .svcPort⟩,
    ⟨"RD_TICK", 0x60000000#32, 0xFFFFFFFF#32, fun _ => .rdTick⟩,
    ⟨"RD_POS", 0x70000000#32, 0xF0FFFFFF#32, fun x => .rdPos (selField x)⟩,
    ⟨"RD_SPEED", 0x80000000#32, 0xF0FFFFFF#32, fun x => .rdSpeed (selField x)⟩,
    ⟨"RD_KEY", 0x90000000#32, 0xFFFFFFFF#32, fun _ => .rdKey⟩,
    ⟨"SET_DUTY", 0xA0000000#32, 0xF0FF0000#32, fun x => .setDuty (selField x) (dataField x)⟩,
    ⟨"PWM_INIT", 0xB0000000#32, 0xFFFF0000#32, fun x => .pwmInit (dataField x)⟩,
    ⟨"SET_IE", 0xC0000000#32, 0xFFFFFFFE#32, fun x => .setIe ((dataField x).getLsbD 0)⟩,
    ⟨"RD_STATUS", 0xD0000000#32, 0xFFFFFFFF#32, fun _ => .rdStatus⟩,
    ⟨"RD_EVENTS", 0xE0000000#32, 0xFFFFFFFF#32, fun _ => .rdEvents⟩ ]

/-- R95: the first row the word matches, else `ILLEGAL_ENCODING`. Total on all 2^32 words. -/
def decode (portBits : Nat) (x : Word) : Except DecodeError Instr :=
  match (opTable portBits).find? (fun r => r.matchesWord x) with
  | some r => .ok (r.build x)
  | none => .error .illegalEncoding

/-- The operation word of an operation (R90 to R94): `rsv` is 0, and so is each field the operation does not use. -/
def encode : Instr → Word
  | .evTimer => mkWord 0x1#4 0#4 0#8 0#16
  | .evPins v => mkWord 0x2#4 0#4 0#8 v
  | .evPwmCycle => mkWord 0x3#4 0#4 0#8 0#16
  | .svcTick => mkWord 0x4#4 0#4 0#8 0#16
  | .svcPort => mkWord 0x5#4 0#4 0#8 0#16
  | .rdTick => mkWord 0x6#4 0#4 0#8 0#16
  | .rdPos w => mkWord 0x7#4 w 0#8 0#16
  | .rdSpeed w => mkWord 0x8#4 w 0#8 0#16
  | .rdKey => mkWord 0x9#4 0#4 0#8 0#16
  | .setDuty c d => mkWord 0xA#4 c 0#8 d
  | .pwmInit p => mkWord 0xB#4 0#4 0#8 p
  | .setIe b => mkWord 0xC#4 0#4 0#8 (0#15 ++ BitVec.ofBool b)
  | .rdStatus => mkWord 0xD#4 0#4 0#8 0#16
  | .rdEvents => mkWord 0xE#4 0#4 0#8 0#16

/-- The four bytes of a word in transport, bits 31:24 first (R72). -/
def wordToBytes (w : Word) : List (BitVec 8) :=
  [w.extractLsb' 24 8, w.extractLsb' 16 8, w.extractLsb' 8 8, w.extractLsb' 0 8]

/-- The words of a byte sequence in transport, four bytes a word, bits 31:24 first (R72); `none` where the bytes end inside
a word. -/
def wordsOfBytes : List (BitVec 8) → Option (List Word)
  | [] => some []
  | b3 :: b2 :: b1 :: b0 :: rest => (wordsOfBytes rest).map ((b3 ++ b2 ++ b1 ++ b0 : Word) :: ·)
  | _ => none

/-- The number of `PORT_BITS` that spec/opcode_table.json is written for: its `EV_PINS` mask is 0xFFFFFF00 (R92). -/
def tablePortBits : Nat := 8

/-- What the decoder reads from an instruction whose low `nbits` bits are those of `w` and whose other bits are 0, under the
`PORT_BITS` of spec/opcode_table.json. One operation is one 32-bit word (R97). -/
def decodeTableWord (nbits w : Nat) : Option Instr :=
  match decode tablePortBits (BitVec.ofNat 32 (w % 2 ^ nbits)) with
  | .ok i => some i
  | .error _ => none

end Sys2Proof
end

