-- ==== Sys2Proof/Machine/State.lean ====
section
/-! DEFINITION. The state of the block (10_state.md), the run's record, and the state after reset (70_reset_and_hazards.md
R270). -/

namespace Sys2Proof.Machine

/-- `db_state` (R37): Idle = 0, Bouncing = 1, Pressed = 2; the value 3 does not exist here (R51 item 6). -/
inductive DbState where
  /-- `Idle` -/
  | idle
  /-- `Bouncing`, the count being in `countdown` (R140) -/
  | bouncing
  /-- `Pressed` -/
  | pressed
  deriving DecidableEq, Repr

/-- A register that exists once for each of the identifiers 1 and 2 (wheels: R44, R45, R48, R49; channels: R46). -/
structure Two (α : Type) where
  /-- for identifier 1 -/
  one : α
  /-- for identifier 2 -/
  two : α
  deriving DecidableEq, Repr

/-- `r[w]` -/
def Two.get {α : Type} (r : Two α) : Ident → α
  | .one => r.one
  | .two => r.two

/-- `r[w] <- v` -/
def Two.set {α : Type} (r : Two α) (w : Ident) (v : α) : Two α :=
  match w with
  | .one => { r with one := v }
  | .two => { r with two := v }

/-- The fault codes (R241). -/
inductive FaultCode where
  /-- 1, `ILLEGAL_ENCODING` -/
  | illegalEncoding
  /-- 2, `ILLEGAL_SELECT` -/
  | illegalSelect
  /-- 3, `PWM_REINIT` -/
  | pwmReinit
  deriving DecidableEq, Repr

/-- What a fault records: the code and the operation word (R54, R240). -/
structure FaultRecord where
  /-- the fault code -/
  code : FaultCode
  /-- the operation word -/
  word : Word
  deriving DecidableEq, Repr

/-- The state of the block and of its run. -/
@[ext]
structure State where
  /-- the configuration of the run (R8); no operation writes it (log entry 7) -/
  cfg : Config
  /-- `tick` (R32), in `[0, TICK_MODULUS)` (log entry 13) -/
  tick : Nat
  /-- `ev_50ms` (R33) -/
  ev50ms : Bool
  /-- `ev_100ms` (R33) -/
  ev100ms : Bool
  /-- `ev_1s` (R33) -/
  ev1s : Bool
  /-- `tmr_pend` (R34) -/
  tmrPend : Bool
  /-- `tmr_overrun` (R35) -/
  tmrOverrun : Bool
  /-- `tick_armed` (R36) -/
  tickArmed : Bool
  /-- `db_state` (R37) -/
  dbState : DbState
  /-- `raw_level` (R38) -/
  rawLevel : Bool
  /-- `stable_level` (R39) -/
  stableLevel : Bool
  /-- `countdown` (R40) -/
  countdown : BitVec 8
  /-- `press_event` (R41) -/
  pressEvent : Bool
  /-- `port_pins` (R42), `PORT_BITS` bits wide, the bits above them 0 -/
  portPins : Half
  /-- `pc_pend` (R43) -/
  pcPend : Bool
  /-- `prev_state[w]` (R44) -/
  prevState : Two (BitVec 2)
  /-- `position[w]` (R45) -/
  position : Two Half
  /-- `duty_hw[c]` (R46), at most `MAX_DUTY >> DUTY_SHIFT` (R51 item 8, log entry 13) -/
  dutyHw : Two Nat
  /-- `pwm_period` (R47) -/
  pwmPeriod : Half
  /-- `pwm_init_done` (R47) -/
  pwmInitDone : Bool
  /-- `pwm_running` (R47) -/
  pwmRunning : Bool
  /-- `prev_position[w]` (R48) -/
  prevPosition : Two Half
  /-- `speed[w]` (R49) -/
  speed : Two Half
  /-- `ie` (R50) -/
  ie : Bool
  /-- the run record's `fault` (R54) -/
  fault : Option FaultRecord
  /-- the values the Host's reads returned, oldest first (R14, R258; log entry 6) -/
  returned : List Half
  /-- the operation words of the trace not yet taken, the next one first (R7; log entry 2) -/
  trace : List Word
  deriving DecidableEq, Repr

/-- Why the machine stops with a fault: the run's fault record, in any step after the one that made it (R240; log entry 4).
Raised by `step` and by every meaning in a state that holds a fault record. Each is safe: the model stops where a device
might ignore the request (R240, R258). -/
inductive Fault where
  /-- the record is `ILLEGAL_ENCODING` with this word (R241 code 1); safe -/
  | illegalEncoding (word : Word)
  /-- the record is `ILLEGAL_SELECT` with this word (R241 code 2); safe -/
  | illegalSelect (word : Word)
  /-- the record is `PWM_REINIT` with this word (R241 code 3); safe -/
  | pwmReinit (word : Word)
  deriving DecidableEq, Repr

/-- Why a step has no meaning. -/
inductive Refusal where
  /-- an instruction without a meaning yet: no arm of `exec` answers with it; safe -/
  | notModelled (mnemonic : String)
  /-- the operation is not enabled, so it has no step and the trace is not a run (R7, R258). Raised by the meanings of
  `SVC_TICK`, `SVC_PORT` and `EV_PWM_CYCLE`; safe (log entry 3) -/
  | notEnabled
  /-- the trace holds no further word: no agent moves. Raised by `step`; safe (log entry 2) -/
  | traceEnded
  /-- the configuration is not admissible, so there is no run (R9). Raised by `step`; safe (log entry 19) -/
  | inadmissibleConfig
  deriving DecidableEq, Repr

/-- The machine right after power-on under configuration `c`, with the external pins at the levels `pins` (R270; the pins are
a free parameter of the run, R42). -/
def State.powerOn (c : Config) (pins : Half) : State where
  cfg := c
  tick := 0
  ev50ms := false
  ev100ms := false
  ev1s := false
  tmrPend := false
  tmrOverrun := false
  tickArmed := false
  dbState := .idle
  rawLevel := false
  stableLevel := false
  countdown := 0#8
  pressEvent := false
  portPins := pins
  pcPend := false
  prevState := ⟨0#2, 0#2⟩
  position := ⟨0#16, 0#16⟩
  dutyHw := ⟨0, 0⟩
  pwmPeriod := 0#16
  pwmInitDone := false
  pwmRunning := false
  prevPosition := ⟨0#16, 0#16⟩
  speed := ⟨0#16, 0#16⟩
  ie := false
  fault := none
  returned := []
  trace := []

/-- The machine right after reset (R270) under the configuration the spec takes (R8, the OPEN parameters free: log entry 8).
DESIGN CHOICE, unsafe: the pins are at 0x00, the level 95_test_vectors.md calls "Reset"; the spec leaves them free (R42) and
`State.powerOn` takes any level (log entry 9). -/
def State.reset : State := State.powerOn Config.spec 0#16

end Sys2Proof.Machine
end

