-- ==== Sys2Proof/Machine/Operands.lean ====
section
/-! DEFINITION. The number notation of 00_scope.md R11, the derived constants of R8, and every operand form: the `sel`
identifier, the duty, the wheel state and the key bit of a snapshot. -/

namespace Sys2Proof.Machine

/-- `wrap_16(v)`, as a 16-bit pattern (R11). -/
def wrap16 (v : Int) : Half := BitVec.ofInt 16 v

/-- `sext_16(v)` (R11). -/
def sext16 (v : Half) : Int := v.toInt

/-- `clamp(v, lo, hi)` (R11). -/
def clamp (v lo hi : Int) : Int := min (max v lo) hi

/-- `sat_16(v)` (R11). -/
def sat16 (v : Int) : Int := clamp v (-32768) 32767

/-- `tdiv(a, b)`, truncating toward zero (R11). -/
def tdiv (a b : Int) : Int := Int.tdiv a b

/-- `zext_16` of one bit (R11, R14). -/
def zext1 (b : Bool) : Half := (BitVec.ofBool b).zeroExtend 16

/-- `DUTY_SHIFT = DUTY_IN_BITS - PWM_RES_BITS` (R8). -/
def dutyShift (c : Config) : Nat := c.dutyInBits - c.pwmResBits

/-- `MAX_DUTY >> DUTY_SHIFT`, the hardware register's maximum (R51 item 8, R186). -/
def maxDutyHw (c : Config) : Nat := c.maxDuty / 2 ^ dutyShift c

/-- `SPEED_NUM = WHEEL_CIRC_MM * 1000` (R8). -/
def speedNum (c : Config) : Int := c.wheelCircMm * 1000

/-- `SPEED_DEN = TICKS_PER_REV * SAMPLE_PERIOD_MS` (R8). -/
def speedDen (c : Config) : Int := c.ticksPerRev * c.samplePeriodMs

/-- The wheel or channel that `sel` names: 1 or 2, any other value being illegal (R93). -/
def selIdent (sel : BitVec 4) : Option Ident :=
  if sel = 1#4 then some .one else if sel = 2#4 then some .two else none

/-- The hardware duty of a `SET_DUTY` operand: `sext_16`, clamp to `[0, MAX_DUTY]`, then discard the low-order bits (R94, R180). -/
def dutyOperand (c : Config) (d : Half) : Nat := (clamp (sext16 d) 0 c.maxDuty).toNat / 2 ^ dutyShift c

/-- `PIN_W1A` or `PIN_W2A` (R8, R162). -/
def pinA (c : Config) : Ident → Nat
  | .one => c.pinW1A
  | .two => c.pinW2A

/-- `PIN_W1B` or `PIN_W2B` (R8, R162). -/
def pinB (c : Config) : Ident → Nat
  | .one => c.pinW1B
  | .two => c.pinW2B

/-- `{snap[A_w], snap[B_w]}`: A is bit 1, B is bit 0 (R162). -/
def wheelState (c : Config) (w : Ident) (snap : Half) : BitVec 2 :=
  BitVec.ofBool (snap.getLsbD (pinA c w)) ++ BitVec.ofBool (snap.getLsbD (pinB c w))

/-- `snap[PIN_KEY]` (R161). -/
def keyBit (c : Config) (snap : Half) : Bool := snap.getLsbD c.pinKey

/-- The decode table as a list by index 0 to 15 (R164). -/
def qtabList : List Int := [0, -1, 1, 0, 1, 0, 0, -1, -1, 0, 0, 1, 0, 1, -1, 0]

/-- `QTAB[prev * 4 + cur]` (R164), a constant no operation can write (R82). -/
def qtab (prev cur : BitVec 2) : Int := qtabList.getD (prev.toNat * 4 + cur.toNat) 0

end Sys2Proof.Machine
end

