-- ==== Sys2Proof/Machine/Flags.lean ====
section
/-! DEFINITION. Every flag computation: the enabling conditions of the services and of the carrier timer, the conditions under
which a flag is set, and the two words that show flags to the Host. -/

namespace Sys2Proof.Machine

/-- `SVC_TICK` is enabled: `tmr_pend = 1 and ie = 1` (R244). -/
def tickServiceDue (s : State) : Bool := s.tmrPend && s.ie

/-- `SVC_PORT` is enabled: `pc_pend = 1 and ie = 1` (R244). -/
def portServiceDue (s : State) : Bool := s.pcPend && s.ie

/-- `EV_PWM_CYCLE` is enabled: `pwm_init_done = 1` (R182). -/
def carrierTimerOn (s : State) : Bool := s.pwmInitDone

/-- A timer expiry now would be lost while overrun recording is armed: `tmr_pend = 1 and tick_armed = 1` (R120). -/
def expiryLost (s : State) : Bool := s.tmrPend && s.tickArmed

/-- The new pin levels change a monitored pin: `((v xor port_pins) and MON_MASK) != 0` (R160). -/
def monitoredChange (v : Half) (s : State) : Bool := ((v ^^^ s.portPins) &&& s.cfg.monMask) != 0#16

/-- `tick mod D = 0`, read with the new `tick` (R122). -/
def eventDue (d : Nat) (s : State) : Bool := s.tick % d == 0

/-- A promotion now would confirm a press edge: `raw_level = KEY_ACTIVE_LEVEL and stable_level != KEY_ACTIVE_LEVEL`, read
before the promotion (R141). -/
def pressEdge (s : State) : Bool := s.rawLevel == s.cfg.keyActiveLevel && s.stableLevel != s.cfg.keyActiveLevel

/-- `zext_16({ev_1s, ev_100ms, ev_50ms})` (R124). -/
def eventWord (s : State) : Half :=
  0#13 ++ BitVec.ofBool s.ev1s ++ BitVec.ofBool s.ev100ms ++ BitVec.ofBool s.ev50ms

/-- The status word (R221, R222), bit 15 first. -/
def statusWord (s : State) : Half :=
  0#2 ++ BitVec.ofBool s.ev1s ++ BitVec.ofBool s.ev100ms ++ BitVec.ofBool s.ev50ms
    ++ BitVec.ofBool s.pressEvent ++ BitVec.ofBool s.rawLevel ++ BitVec.ofBool s.stableLevel
    ++ BitVec.ofBool (s.dbState == .bouncing) ++ BitVec.ofBool s.pwmRunning ++ BitVec.ofBool s.pwmInitDone
    ++ BitVec.ofBool s.tmrOverrun ++ BitVec.ofBool s.tickArmed ++ BitVec.ofBool s.ie
    ++ BitVec.ofBool s.pcPend ++ BitVec.ofBool s.tmrPend

/-- `gate_duty(c)`: the duty register while the carrier runs, else 0 (R185). A function of the state, not a register. -/
def gateDuty (s : State) (c : Ident) : Nat := if s.pwmRunning then s.dutyHw.get c else 0

end Sys2Proof.Machine
end

