-- ==== Sys2Proof/Machine/Ops.lean ====
section
/-! DEFINITION. The operations the meanings share: taking the next word of the trace, the enabling check, raising a fault
(the block's one kind of exception, 60_exceptions.md R240; there is no return from it, nor from a service, R248), delivering
a result to the Host, and the `sel` check. -/

namespace Sys2Proof.Machine

/-- The outcome of a step of this machine. -/
abbrev Out := Host.Outcome State Fault Refusal

/-- What a machine that holds this fault record stops with (R240). -/
def FaultRecord.stop (f : FaultRecord) : Fault :=
  match f.code with
  | .illegalEncoding => .illegalEncoding f.word
  | .illegalSelect => .illegalSelect f.word
  | .pwmReinit => .pwmReinit f.word

/-- The number of a fault code (R241). -/
def FaultCode.number : FaultCode → Nat
  | .illegalEncoding => 1
  | .illegalSelect => 2
  | .pwmReinit => 3

/-- `raise Fault(code)` on the word `word` (R240): no other write of the operation remains, and the record is set. The state
that holds the record is the last of the run (log entry 4). -/
def raiseFault (code : FaultCode) (word : Word) (s : State) : Out := .next { s with fault := some ⟨code, word⟩ }

/-- The enabling check of an operation (R12): no operation is enabled once a fault is recorded (R240), and an operation whose
own condition `enabled` fails has no step (R7). -/
def whenEnabled (enabled : Bool) (s : State) (body : Out) : Out :=
  match s.fault with
  | some f => .fault f.stop
  | none => if enabled then body else .refused .notEnabled

/-- The `sel` check of R93: `ILLEGAL_SELECT` before any state change unless `sel` is 1 or 2. `i` is the operation, whose word
the fault records (log entry 5). -/
def withSel (i : Instr) (sel : BitVec 4) (s : State) (body : Ident → Out) : Out :=
  match selIdent sel with
  | some w => body w
  | none => raiseFault .illegalSelect (encode i) s

/-- `return v`: the result is delivered to the Host (R12, R14). -/
def deliver (v : Half) (s : State) : State := { s with returned := s.returned ++ [v] }

/-- Takes the next word of the trace, where the run goes on: there is none under an inadmissible configuration (R9), after a
fault (R240) or when the trace has ended (R258). -/
def fetchWord (s : State) : Except Out (Word × State) :=
  if s.cfg.admissible then
    match s.fault with
    | some f => .error (.fault f.stop)
    | none =>
      match s.trace with
      | [] => .error (.refused .traceEnded)
      | w :: rest => .ok (w, { s with trace := rest })
  else .error (.refused .inadmissibleConfig)

/-- A word that fails decode raises `ILLEGAL_ENCODING` (R95, R240). -/
def rejectWord (w : Word) (s : State) : Out := raiseFault .illegalEncoding w s

end Sys2Proof.Machine
end

