-- ==== Sys2Proof/Machine/PwmUnit.lean ====
section
/-! DEFINITION. The PWM unit (43_pwm.md): SET_DUTY, PWM_INIT and EV_PWM_CYCLE. -/

namespace Sys2Proof.Machine

/-- SET_DUTY c, d (R180): clamp, then shift; the other channel is unchanged. -/
def execSetDuty (c : BitVec 4) (d : Half) (s : State) : Out :=
  whenEnabled true s
    (withSel (.setDuty c d) c s fun channel => .next { s with dutyHw := s.dutyHw.set channel (dutyOperand s.cfg d) })

/-- PWM_INIT p (R181): once; a second one raises `PWM_REINIT`. -/
def execPwmInit (p : Half) (s : State) : Out :=
  whenEnabled true s
    (if s.pwmInitDone then raiseFault .pwmReinit (encode (.pwmInit p)) s
     else .next { s with pwmPeriod := p, pwmInitDone := true })

/-- EV_PWM_CYCLE (R182): enabled once `PWM_INIT` has run; the first one starts the carrier. -/
def execEvPwmCycle (s : State) : Out :=
  whenEnabled (carrierTimerOn s) s (.next { s with pwmRunning := true })

end Sys2Proof.Machine
end

