-- ==== Sys2Proof/Machine/DebounceUnit.lean ====
section
/-! DEFINITION. The debounce unit (41_debounce.md): DebounceTick, DebounceRaw and RD_KEY. -/

namespace Sys2Proof.Machine

/-- Promotes `raw_level` to `stable_level`, recording a confirmed press edge (the inner block of R141). -/
def promote (s : State) : State :=
  { s with
    pressEvent := s.pressEvent || pressEdge s
    stableLevel := s.rawLevel
    dbState := if s.rawLevel = s.cfg.keyActiveLevel then .pressed else .idle }

/-- `DebounceTick()` (R141). In `Idle` or `Pressed` a tick changes nothing. -/
def debounceTick (s : State) : State :=
  if s.dbState = .bouncing then
    let s1 := { s with countdown := s.countdown - 1#8 }
    if s1.countdown = 0#8 then promote s1 else s1
  else s

/-- `DebounceRaw(k)` (R142). -/
def debounceRaw (k : Bool) (s : State) : State :=
  if k = s.rawLevel then s
  else { s with rawLevel := k, countdown := BitVec.ofNat 8 s.cfg.debounceTicks, dbState := .bouncing }

/-- RD_KEY (R143): read and clear `press_event`. -/
def execRdKey (s : State) : Out :=
  whenEnabled true s (.next (deliver (zext1 s.pressEvent) { s with pressEvent := false }))

end Sys2Proof.Machine
end

