-- ==== Sys2Proof/Machine/QuadUnit.lean ====
section
/-! DEFINITION. The quadrature unit and the port (42_quadrature.md): QuadDecode, EV_PINS, SVC_PORT and RD_POS. -/

namespace Sys2Proof.Machine

/-- `QuadDecode(w, snap)` (R162, R163, R164). -/
def quadDecode (w : Ident) (snap : Half) (s : State) : State :=
  let cur := wheelState s.cfg w snap
  { s with
    position := s.position.set w (wrap16 (sext16 (s.position.get w) + qtab (s.prevState.get w) cur))
    prevState := s.prevState.set w cur }

/-- The pin-change service on a snapshot (R161): both wheels, the key, then the pending flag. -/
def portService (snap : Half) (s : State) : State :=
  { debounceRaw (keyBit s.cfg snap) (quadDecode .two snap (quadDecode .one snap s)) with pcPend := false }

/-- EV_PINS v (R160). -/
def execEvPins (v : Half) (s : State) : Out :=
  whenEnabled true s (.next { s with pcPend := s.pcPend || monitoredChange v s, portPins := v })

/-- SVC_PORT (R161): the port is read once, whole (R71). -/
def execSvcPort (s : State) : Out :=
  whenEnabled (portServiceDue s) s (.next (portService s.portPins s))

/-- RD_POS w (R165). -/
def execRdPos (w : BitVec 4) (s : State) : Out :=
  whenEnabled true s (withSel (.rdPos w) w s fun wheel => .next (deliver (s.position.get wheel) s))

end Sys2Proof.Machine
end

