-- ==== Sys2Proof/Machine/SystemUnit.lean ====
section
/-! DEFINITION. System control (45_system.md): SET_IE and RD_STATUS. -/

namespace Sys2Proof.Machine

/-- SET_IE b (R220): the first enable arms overrun recording, for good. -/
def execSetIe (b : Bool) (s : State) : Out :=
  whenEnabled true s (.next { s with ie := b, tickArmed := s.tickArmed || b })

/-- RD_STATUS (R221). -/
def execRdStatus (s : State) : Out :=
  whenEnabled true s (.next (deliver (statusWord s) s))

end Sys2Proof.Machine
end

