-- ==== Sys2Proof/Machine/SpeedUnit.lean ====
section
/-! DEFINITION. The speed unit (44_speed.md): SpeedSample and RD_SPEED. -/

namespace Sys2Proof.Machine

/-- The 16-bit count difference read as signed: `sext_16(wrap_16(position[w] - prev_position[w]))` (R200). -/
def speedDelta (w : Ident) (s : State) : Int :=
  sext16 (wrap16 (sext16 (s.position.get w) - sext16 (s.prevPosition.get w)))

/-- The speed of a count difference: exact product, one truncating division, saturation (R200, R201). -/
def speedOf (c : Config) (delta : Int) : Half := wrap16 (sat16 (tdiv (delta * speedNum c) (speedDen c)))

/-- `SpeedSample(w)` (R200). -/
def speedSample (w : Ident) (s : State) : State :=
  { s with
    speed := s.speed.set w (speedOf s.cfg (speedDelta w s))
    prevPosition := s.prevPosition.set w (s.position.get w) }

/-- RD_SPEED w (R202). -/
def execRdSpeed (w : BitVec 4) (s : State) : Out :=
  whenEnabled true s (withSel (.rdSpeed w) w s fun wheel => .next (deliver (s.speed.get wheel) s))

end Sys2Proof.Machine
end

