-- ==== Sys2Proof/Machine/TickUnit.lean ====
section
/-! DEFINITION. The tick unit (40_tick.md): EV_TIMER, SVC_TICK with TickEvents, RD_TICK and RD_EVENTS. -/

namespace Sys2Proof.Machine

/-- `tick <- (tick + 1) mod TICK_MODULUS` (R121). -/
def advanceTick (s : State) : State := { s with tick := (s.tick + 1) % s.cfg.tickModulus }

/-- The 50 ms line of TickEvents (R122). -/
def event50ms (s : State) : State := if eventDue s.cfg.div50ms s then { s with ev50ms := true } else s

/-- The 100 ms line of TickEvents: the flag and one speed sample a wheel (R122, R200). -/
def event100ms (s : State) : State :=
  if eventDue s.cfg.div100ms s then speedSample .two (speedSample .one { s with ev100ms := true }) else s

/-- The 1 s line of TickEvents (R122). -/
def event1s (s : State) : State := if eventDue s.cfg.div1s s then { s with ev1s := true } else s

/-- `TickEvents()` (R122), reading the new `tick`. -/
def tickEvents (s : State) : State := event1s (event100ms (event50ms s))

/-- The tick service (R121): count, debounce, events, then the pending flag. -/
def tickService (s : State) : State := { tickEvents (debounceTick (advanceTick s)) with tmrPend := false }

/-- EV_TIMER (R120). -/
def execEvTimer (s : State) : Out :=
  whenEnabled true s (.next { s with tmrOverrun := s.tmrOverrun || expiryLost s, tmrPend := true })

/-- SVC_TICK (R121). -/
def execSvcTick (s : State) : Out :=
  whenEnabled (tickServiceDue s) s (.next (tickService s))

/-- RD_TICK (R123): `zext_16(tick)`. -/
def execRdTick (s : State) : Out :=
  whenEnabled true s (.next (deliver (BitVec.ofNat 16 s.tick) s))

/-- RD_EVENTS (R124): read and clear the three event flags. -/
def execRdEvents (s : State) : Out :=
  whenEnabled true s (.next (deliver (eventWord s) { s with ev50ms := false, ev100ms := false, ev1s := false }))

end Sys2Proof.Machine
end

