-- ==== Sys2Proof/Machine/Dispatch.lean ====
section
/-! DEFINITION. One arm an operation: the meaning of every constructor of `Instr`. -/

namespace Sys2Proof.Machine

def exec (i : Instr) (s : State) : Host.Outcome State Fault Refusal :=
  match i with
  | .evTimer => Sys2Proof.Machine.execEvTimer s
  | .evPins v => Sys2Proof.Machine.execEvPins v s
  | .evPwmCycle => Sys2Proof.Machine.execEvPwmCycle s
  | .svcTick => Sys2Proof.Machine.execSvcTick s
  | .svcPort => Sys2Proof.Machine.execSvcPort s
  | .rdTick => Sys2Proof.Machine.execRdTick s
  | .rdPos w => Sys2Proof.Machine.execRdPos w s
  | .rdSpeed w => Sys2Proof.Machine.execRdSpeed w s
  | .rdKey => Sys2Proof.Machine.execRdKey s
  | .setDuty c d => Sys2Proof.Machine.execSetDuty c d s
  | .pwmInit p => Sys2Proof.Machine.execPwmInit p s
  | .setIe b => Sys2Proof.Machine.execSetIe b s
  | .rdStatus => Sys2Proof.Machine.execRdStatus s
  | .rdEvents => Sys2Proof.Machine.execRdEvents s

end Sys2Proof.Machine
end

