-- ==== Sys2Proof/Machine/Step.lean ====
section
/-! DEFINITION. One step of a run: the next word of the trace is taken, decoded and executed (00_scope.md R5, R7;
30_encoding.md R101). -/

namespace Sys2Proof.Machine

/-- One step. Decode comes first, so an illegal word faults even where it names no enabled operation (R101); the enabling
condition, the `sel` check and the state check follow in that order inside the meaning. -/
def step (s : State) : Host.Outcome State Fault Refusal :=
  match fetchWord s with
  | .error stop => stop
  | .ok (w, s1) =>
    match decode s1.cfg.portBits w with
    | .ok i => exec i s1
    | .error _ => rejectWord w s1

/-- `s` with the word whose low `nbits` bits are those of `w` (the rest 0) as the next word of the trace. It stands for the
agent's choice of the next operation, or for the loading of a trace from outside the machine (R6, R7; log entry 2). -/
def State.withFetchWord (s : State) (nbits w : Nat) : State :=
  { s with trace := BitVec.ofNat 32 (w % 2 ^ nbits) :: s.trace }

end Sys2Proof.Machine
end

