-- ==== Sys2Proof/Machine/Assembly.lean ====
section
/-! DEFINITION. The trace assembly syntax (30_encoding.md R98) and the pseudo-operations (R99). A line of text is given as its
characters. What R98 does not say of spaces and letter case is in log entry 20. -/

namespace Sys2Proof.Machine

/-- `CS_ENTER` (R99): opens a critical section. -/
def csEnter : List Instr := [.setIe false]

/-- `CS_EXIT` (R99): closes it. -/
def csExit : List Instr := [.setIe true]

/-- `STOP_ALL` (R99): both duties 0. -/
def stopAll : List Instr := [.setDuty 1#4 0#16, .setDuty 2#4 0#16]

/-- `TICK` (R99): one tick with immediate service. -/
def tickOps : List Instr := [.evTimer, .svcTick]

/-- `PINS v` (R99): a pin change with immediate service. -/
def pinsOps (v : Half) : List Instr := [.evPins v, .svcPort]

/-- `n * { s }` (R99): the sequence `s` written `n` times. -/
def repeatOps (n : Nat) (ops : List Instr) : List Instr := (List.replicate n ops).flatten

/-- An operation or pseudo-operation of one line: its mnemonic and its operands (R98). -/
structure AsmLine where
  /-- the mnemonic -/
  mnemonic : String
  /-- the operands, in order -/
  operands : List Int
  deriving DecidableEq, Repr

/-- The value of a digit in base 10 or 16. DESIGN CHOICE (log entry 20): the hexadecimal digits A to F may be upper or lower
case, of which R98 says nothing. -/
def digitValue (base : Nat) (c : Char) : Option Nat :=
  let n := c.toNat
  let d := if 48 ≤ n ∧ n ≤ 57 then some (n - 48)
    else if 65 ≤ n ∧ n ≤ 70 then some (n - 55)
    else if 97 ≤ n ∧ n ≤ 102 then some (n - 87)
    else none
  d.filter (fun k => decide (k < base))

/-- Digits in a base, most significant first, after the value `acc` of the digits before them. -/
def digitsValue (base acc : Nat) : List Char → Option Nat
  | [] => some acc
  | c :: cs => (digitValue base c).bind fun d => digitsValue base (acc * base + d) cs

/-- A number without a sign; at least one digit. -/
def parseDigits (base : Nat) : List Char → Option Nat
  | [] => none
  | c :: cs => digitsValue base 0 (c :: cs)

/-- A number: hexadecimal with `0x`, or decimal, optionally signed (R98). DESIGN CHOICE (log entry 20): the sign of a
decimal number may be a plus. -/
def parseNumber : List Char → Option Int
  | '0' :: 'x' :: ds => (parseDigits 16 ds).map Int.ofNat
  | '-' :: ds => (parseDigits 10 ds).map fun n => -Int.ofNat n
  | '+' :: ds => (parseDigits 10 ds).map Int.ofNat
  | ds => (parseDigits 10 ds).map Int.ofNat

/-- A blank between the parts of a line. DESIGN CHOICE (log entry 20): a space, a tab or a carriage return, of which R98 says
nothing. -/
def isBlank (c : Char) : Bool := c == ' ' || c == '\t' || c == '\r'

/-- A text without the blanks at its ends. -/
def trimBlanks (cs : List Char) : List Char := ((cs.dropWhile isBlank).reverse.dropWhile isBlank).reverse

/-- The operands of a line, separated by commas (R98). DESIGN CHOICE (log entry 20): blanks around an operand are passed
over. -/
def parseOperands (cs : List Char) : Option (List Int) :=
  if cs.isEmpty then some [] else (cs.splitOn ',').mapM fun part => parseNumber (trimBlanks part)

/-- A line of trace assembly (R98): `some none` for a line that holds only a comment or nothing. DESIGN CHOICE (log entry 20): such
a line is accepted, and blanks end the mnemonic. -/
def parseLine (cs : List Char) : Option (Option AsmLine) :=
  let body := trimBlanks (cs.takeWhile (· != ';'))
  if body.isEmpty then some none
  else
    let mnemonic := body.takeWhile (fun c => !isBlank c)
    (parseOperands (trimBlanks (body.dropWhile (fun c => !isBlank c)))).map fun ops =>
      some ⟨String.ofList mnemonic, ops⟩

/-- An operand in `[lo, hi]` as a 16-bit pattern; out of the accepted range is an assembly error (R98). -/
def operand16 (lo hi v : Int) : Option Half := if lo ≤ v ∧ v ≤ hi then some (BitVec.ofInt 16 v) else none

/-- A `sel` operand: 0 to 15, so that a trace can show the fault of R93 (R98). -/
def operandSel (v : Int) : Option (BitVec 4) := if 0 ≤ v ∧ v ≤ 15 then some (BitVec.ofInt 4 v) else none

/-- The operations of a line: one for an operation (R98), the expansion for a pseudo-operation (R99), `none` for an assembly
error. DESIGN CHOICE (log entry 20): mnemonics are upper case only. -/
def assembleLine (portBits : Nat) (l : AsmLine) : Option (List Instr) :=
  match l.mnemonic, l.operands with
  | "EV_TIMER", [] => some [.evTimer]
  | "EV_PINS", [v] => (operand16 0 (2 ^ portBits - 1) v).map fun x => [.evPins x]
  | "EV_PWM_CYCLE", [] => some [.evPwmCycle]
  | "SVC_TICK", [] => some [.svcTick]
  | "SVC_PORT", [] => some [.svcPort]
  | "RD_TICK", [] => some [.rdTick]
  | "RD_POS", [w] => (operandSel w).map fun x => [.rdPos x]
  | "RD_SPEED", [w] => (operandSel w).map fun x => [.rdSpeed x]
  | "RD_KEY", [] => some [.rdKey]
  | "SET_DUTY", [c, d] => (operandSel c).bind fun x => (operand16 (-32768) 32767 d).map fun y => [.setDuty x y]
  | "PWM_INIT", [p] => (operand16 0 65535 p).map fun x => [.pwmInit x]
  | "SET_IE", [b] => if b = 0 then some [.setIe false] else if b = 1 then some [.setIe true] else none
  | "RD_STATUS", [] => some [.rdStatus]
  | "RD_EVENTS", [] => some [.rdEvents]
  | "CS_ENTER", [] => some csEnter
  | "CS_EXIT", [] => some csExit
  | "STOP_ALL", [] => some stopAll
  | "TICK", [] => some tickOps
  | "PINS", [v] => (operand16 0 (2 ^ portBits - 1) v).map pinsOps
  | _, _ => none

/-- The words of a trace written as lines of assembly; `none` where a line is an assembly error (R98: no word is produced). -/
def assemble (portBits : Nat) (lines : List (List Char)) : Option (List Word) :=
  (lines.mapM fun line => (parseLine line).bind fun
    | none => some []
    | some l => (assembleLine portBits l).map fun ops => ops.map encode).map List.flatten

end Sys2Proof.Machine
end

