-- ==== Sys2Proof/Safety.lean ====
section
/-! DEFINITION. Runs and their outcomes (60_exceptions.md R258, R247), what counts as a safe run, the invariant of 10_state.md
R51, and the vocabulary in which claims about runs are stated. -/

namespace Sys2Proof.Machine

/-- The next state of an outcome, where it has one. -/
def nextOf : Out → Option State
  | .next t => some t
  | .fault _ => none
  | .refused _ => none

/-- The enabling condition of each operation as its rule states it, together with `fault = none` (R240, R244, R182). -/
def enabled (i : Instr) (s : State) : Bool :=
  s.fault.isNone &&
    match i with
    | .svcTick => s.tmrPend && s.ie
    | .svcPort => s.pcPend && s.ie
    | .evPwmCycle => s.pwmInitDone
    | .evTimer => true
    | .evPins _ => true
    | .rdTick => true
    | .rdPos _ => true
    | .rdSpeed _ => true
    | .rdKey => true
    | .setDuty _ _ => true
    | .pwmInit _ => true
    | .setIe _ => true
    | .rdStatus => true
    | .rdEvents => true

/-- An operation that would raise a fault once it is enabled (R241 codes 2 and 3). -/
def raisesFault (i : Instr) (s : State) : Bool :=
  !i.selLegal ||
    match i with
    | .pwmInit _ => s.pwmInitDone
    | .evTimer => false
    | .evPins _ => false
    | .evPwmCycle => false
    | .svcTick => false
    | .svcPort => false
    | .rdTick => false
    | .rdPos _ => false
    | .rdSpeed _ => false
    | .rdKey => false
    | .setDuty _ _ => false
    | .setIe _ => false
    | .rdStatus => false
    | .rdEvents => false

/-- A Host read: an operation that returns one 16-bit value (00_scope.md R14, 20_memory.md R74). -/
def isRead : Instr → Bool
  | .rdTick => true
  | .rdEvents => true
  | .rdKey => true
  | .rdPos _ => true
  | .rdSpeed _ => true
  | .rdStatus => true
  | .evTimer => false
  | .evPins _ => false
  | .evPwmCycle => false
  | .svcTick => false
  | .svcPort => false
  | .setDuty _ _ => false
  | .pwmInit _ => false
  | .setIe _ => false

/-- Every word that matches `fixedBits` under `mask` decodes to the operation `build` reads from it (R92, R95), under the
`PORT_BITS` of spec/opcode_table.json. -/
def EncodedBy (fixedBits mask : Word) (build : Word → Instr) : Prop :=
  ∀ x : Word, x &&& mask = fixedBits → decode tablePortBits x = .ok (build x)

/-- The run that a fault leaves: the state as it was, with the record of `code` and `word` (R240). -/
def faultedWith (code : FaultCode) (word : Word) (s : State) : State := { s with fault := some ⟨code, word⟩ }

/-- A sequence of operations, whatever agents take them (R6). -/
def execAll : List Instr → State → Out
  | [], s => .next s
  | i :: is, s =>
    match exec i s with
    | .next t => execAll is t
    | .fault f => .fault f
    | .refused r => .refused r

/-- `P` holds of the first state of a sequence of operations and of every state after one of them. -/
def Along (P : State → Prop) : List Instr → State → Prop
  | [], s => P s
  | i :: is, s =>
    P s ∧
      match exec i s with
      | .next t => Along P is t
      | .fault _ => True
      | .refused _ => True

/-- How many operations of a sequence make a step `p` tells: `p i before after`. -/
def countSteps (p : Instr → State → State → Bool) : List Instr → State → Nat
  | [], _ => 0
  | i :: is, s =>
    match exec i s with
    | .next t => (if p i s t then 1 else 0) + countSteps p is t
    | .fault _ => 0
    | .refused _ => 0

/-- A tick service whose new `tick` is a multiple of `d` (R122, R126). -/
def isEventTick (d : Nat) (i : Instr) (_s t : State) : Bool := i == .svcTick && t.tick % d == 0

/-- A confirmed press edge: a promotion that takes `stable_level` from not active to active (00_scope.md R15, R145). -/
def isPressEdge (_i : Instr) (s t : State) : Bool :=
  s.stableLevel != s.cfg.keyActiveLevel && t.stableLevel == t.cfg.keyActiveLevel

/-- A confirmed release: a promotion that takes `stable_level` from active to not active (R145). -/
def isRelease (_i : Instr) (s t : State) : Bool :=
  s.stableLevel == s.cfg.keyActiveLevel && t.stableLevel != t.cfg.keyActiveLevel

/-- An RD_KEY that returns 1 (R143). -/
def isKeyReport (i : Instr) (s t : State) : Bool := i == .rdKey && t.returned == s.returned ++ [1#16]

/-- The next wheel state along the cycle that counts +1: `0 -> 2 -> 3 -> 1 -> 0` (R164). -/
def cycleNext (st : BitVec 2) : BitVec 2 :=
  if st = 0#2 then 2#2 else if st = 2#2 then 3#2 else if st = 3#2 then 1#2 else 0#2

/-- Two wheel states that differ in exactly one bit: neighbours on the cycle (R164, R167). -/
def oneBitApart (a b : BitVec 2) : Bool := a ^^^ b == 1#2 || a ^^^ b == 2#2

/-- A sequence of wheel states, each differing from the one before in one bit, the first from `prev` (R167). -/
def grayPath (prev : BitVec 2) : List (BitVec 2) → Bool
  | [] => true
  | cur :: rest => oneBitApart prev cur && grayPath cur rest

/-- Steps along the cycle minus steps against it (R167). -/
def netSteps (prev : BitVec 2) : List (BitVec 2) → Int
  | [] => 0
  | cur :: rest => (if cur = cycleNext prev then 1 else 0) - (if prev = cycleNext cur then 1 else 0) + netSteps cur rest

/-- The new pin levels of an EV_PINS (R160). -/
def newPins : Instr → Option Half
  | .evPins v => some v
  | .evTimer => none
  | .evPwmCycle => none
  | .svcTick => none
  | .svcPort => none
  | .rdTick => none
  | .rdPos _ => none
  | .rdSpeed _ => none
  | .rdKey => none
  | .setDuty _ _ => none
  | .pwmInit _ => none
  | .setIe _ => none
  | .rdStatus => none
  | .rdEvents => none

/-- The states that the pins of wheel `w` take along a sequence of operations, one for each EV_PINS (R162, R167). -/
def wheelPath (c : Config) (w : Ident) (ops : List Instr) : List (BitVec 2) := (ops.filterMap newPins).map (wheelState c w)

/-- The premise of R167: from `served`, the wheel state last serviced, and `now`, the state the pins show, each change of the
wheel's pins is of one bit and is followed by an SVC_PORT before the wheel's next change and before the end. What the other
operations and the other pins do is free. -/
def servedInTurn (c : Config) (w : Ident) (served now : BitVec 2) : List Instr → Bool
  | [] => served == now
  | i :: is =>
    if i = .svcPort then servedInTurn c w now now is
    else
      match newPins i with
      | none => servedInTurn c w served now is
      | some v =>
        (wheelState c w v == now || (served == now && oneBitApart now (wheelState c w v)))
          && servedInTurn c w served (wheelState c w v) is

/-- The invariants of R51, with the admissibility of the configuration (R9) and the width of `port_pins` (R42). -/
structure Inv (s : State) : Prop where
  /-- R9 -/
  admissible : s.cfg.admissible = true
  /-- item 1 -/
  tick_lt : s.tick < s.cfg.tickModulus
  /-- item 2 -/
  bouncing : s.dbState = .bouncing → 1 ≤ s.countdown.toNat ∧ s.countdown.toNat ≤ s.cfg.debounceTicks
  /-- item 3 -/
  settled : s.dbState ≠ .bouncing → s.countdown = 0#8 ∧ s.rawLevel = s.stableLevel
  /-- item 4, which needs `KEY_ACTIVE_LEVEL = 1` (R51; log entry 23) -/
  idle : s.cfg.keyActiveLevel = true → s.dbState = .idle → s.stableLevel ≠ s.cfg.keyActiveLevel
  /-- item 5 -/
  pressed : s.dbState = .pressed → s.stableLevel = s.cfg.keyActiveLevel
  /-- item 7 -/
  running : s.pwmRunning = true → s.pwmInitDone = true
  /-- item 8 -/
  duty : ∀ c, s.dutyHw.get c ≤ maxDutyHw s.cfg
  /-- item 9 -/
  overrun : s.tmrOverrun = true → s.tickArmed = true
  /-- `port_pins` is `PORT_BITS` bits wide (R42) -/
  pins : s.portPins.toNat < 2 ^ s.cfg.portBits

/-- The three outcomes of R258. -/
inductive RunOutcome where
  /-- every word had a step and no fault was raised; the values the reads returned are in the final state, and `gates` are the
  gate duties of channels 1 and 2 at every point, the first state's first -/
  | completed (final : State) (gates : List (Nat × Nat))
  /-- some word raised a fault; the run ends there (log entry 18) -/
  | faulted (record : FaultRecord) (final : State)
  /-- some word had no step, or the configuration is not admissible (R9) -/
  | notARun
  deriving DecidableEq, Repr

/-- The gate duties of both channels (R185). -/
def gates (s : State) : Nat × Nat := (gateDuty s .one, gateDuty s .two)

/-- An outcome seen from one point earlier. -/
def RunOutcome.after (g : Nat × Nat) : RunOutcome → RunOutcome
  | .completed final gs => .completed final (g :: gs)
  | .faulted r final => .faulted r final
  | .notARun => .notARun

/-- The outcome of a list of words under an admissible configuration (R258), each word being one `step`. -/
def runWords : List Word → State → RunOutcome
  | [], s =>
    match s.fault with
    | none => .completed s [gates s]
    | some f => .faulted f s
  | w :: ws, s =>
    match s.fault with
    | none =>
      match step { s with trace := [w] } with
      | .next t => (runWords ws t).after (gates s)
      | .fault _ => .notARun
      | .refused _ => .notARun
    | some f => .faulted f s

/-- The outcome of a finite trace (R258). Under an inadmissible configuration there is no run, not even of the empty trace (R9). -/
def runTrace (ws : List Word) (s : State) : RunOutcome :=
  if s.cfg.admissible then runWords ws s else .notARun

/-- A safe run: the trace completes, that is, every word has a step and none raises a fault (R240, R258). -/
def SafeRun (ws : List Word) (s : State) : Prop := ∃ final gs, runTrace ws s = .completed final gs

/-- A fair infinite run (R247): `st n` is the state before operation `op n`, and `hostHasMore n` says that the Host's program
has a further operation at point `n`. Only liveness claims use it. -/
structure FairRun (st : Nat → State) (op : Nat → Instr) (hostHasMore : Nat → Prop) : Prop where
  /-- there is a run only under an admissible configuration (R9), which no operation writes (R8) -/
  admissible : (st 0).cfg.admissible = true
  /-- every operation has its step -/
  steps : ∀ n, exec (op n) (st n) = .next (st (n + 1))
  /-- SVC_TICK does not stay enabled forever without running -/
  tickServed : ∀ n, ∃ m, n ≤ m ∧ (op m = .svcTick ∨ enabled .svcTick (st m) = false)
  /-- SVC_PORT does not stay enabled forever without running -/
  portServed : ∀ n, ∃ m, n ≤ m ∧ (op m = .svcPort ∨ enabled .svcPort (st m) = false)
  /-- the Host eventually takes a further operation it has -/
  hostMoves : ∀ n, hostHasMore n → ∃ m, n ≤ m ∧ (op m).agent = .host

end Sys2Proof.Machine
end

