-- ==== Sys2Proof/Certificates/Slice0/Obligations.lean ====
section
/-! DEFINITION. The statements for the provers. Each docstring names the rules it formalises. A statement about every state is
a statement about every configuration, since the state carries it (log entry 7). -/

open Sys2Proof Sys2Proof.Machine

/-! ## Encoding (30_encoding.md) -/

/-- R90 to R95: the word of every operation the assembler accepts decodes to that operation, at every `PORT_BITS` the
configuration admits and with every operand at every value. -/
def Obligations.DecodeInvertsEncode : Prop :=
  ∀ (portBits : Nat) (i : Instr), portBits ≤ 16 → i.wellFormed portBits = true →
    decode portBits (encode i) = .ok i

/-- R95, R96, R98: a word that decodes is the word of the operation it decodes to, and that operation is well-formed: no bit of
a word is dropped and no operation has a second word. That an EV_PINS operand fits a `PORT_BITS` below 8 rests on the model's
reading of the pin field there (DEDUCED, log entry 12: R92 only widens it above 8). -/
def Obligations.EncodeInvertsDecode : Prop :=
  ∀ (portBits : Nat) (x : Word) (i : Instr), portBits ≤ 16 → decode portBits x = .ok i →
    encode i = x ∧ i.wellFormed portBits = true

/-- R96: the illegal words, field by field, and what such a word does when it is the next of a run. -/
def Obligations.IllegalWordsRaiseIllegalEncoding : Prop :=
  (∀ x : Word,
    decode tablePortBits x = .error .illegalEncoding ↔
      (opField x = 0x0#4 ∨ opField x = 0xF#4)
        ∨ rsvField x ≠ 0#8
        ∨ (selField x ≠ 0#4 ∧ opField x ≠ 0x7#4 ∧ opField x ≠ 0x8#4 ∧ opField x ≠ 0xA#4)
        ∨ (opField x = 0x2#4 ∧ 2 ^ 8 ≤ (dataField x).toNat)
        ∨ (opField x = 0xC#4 ∧ 2 ≤ (dataField x).toNat)
        ∨ (dataField x ≠ 0#16 ∧ opField x ≠ 0x2#4 ∧ opField x ≠ 0xA#4 ∧ opField x ≠ 0xB#4 ∧ opField x ≠ 0xC#4)) ∧
  ∀ (s : State) (x : Word) (rest : List Word), s.cfg.admissible = true → s.fault = none → s.trace = x :: rest →
    decode s.cfg.portBits x = .error .illegalEncoding →
    step s = .next { s with trace := rest, fault := some ⟨.illegalEncoding, x⟩ }

/-- R95: a word that matches a row of R92 decodes by that row, whichever row it is; a word that matches none does not decode.
The row of EV_PINS below `PORT_BITS` 8 is the model's reading (DEDUCED, log entry 12). -/
def Obligations.DecodeFollowsTheTable : Prop :=
  ∀ (portBits : Nat) (x : Word), portBits ≤ 16 →
    (∀ r ∈ opTable portBits, x &&& r.mask = r.fixedBits → decode portBits x = .ok (r.build x)) ∧
    ((∀ r ∈ opTable portBits, x &&& r.mask ≠ r.fixedBits) → decode portBits x = .error .illegalEncoding)

/-- R92: "The rows' `op` values are distinct, so no word matches two rows." -/
def Obligations.NoWordMatchesTwoRows : Prop :=
  ∀ portBits : Nat, portBits ≤ 16 →
    (opTable portBits).Pairwise fun a b => ∀ x : Word, ¬ (x &&& a.mask = a.fixedBits ∧ x &&& b.mask = b.fixedBits)

/-- R100: the example encodings, each way. -/
def Obligations.ExampleEncodings : Prop :=
  ∀ p ∈ [(Instr.evTimer, 0x10000000#32), (.evPins 0x13#16, 0x20000013#32),
      (.setDuty 1#4 (BitVec.ofInt 16 (-5)), 0xA100FFFB#32), (.setDuty 2#4 1123#16, 0xA2000463#32),
      (.setDuty 1#4 512#16, 0xA1000200#32), (.pwmInit 0x00FF#16, 0xB00000FF#32), (.setIe true, 0xC0000001#32),
      (.rdPos 2#4, 0x72000000#32), (.rdSpeed 1#4, 0x81000000#32)],
    encode p.1 = p.2 ∧ decode tablePortBits p.2 = .ok p.1

/-- R72: words stored as bytes, bits 31:24 first, read back as the same words. -/
def Obligations.TransportOfWordsRoundTrips : Prop :=
  ∀ ws : List Word, wordsOfBytes (ws.flatMap wordToBytes) = some ws

/-- R98, R99: for each mnemonic, exactly which operands the assembler accepts and which operations the line stands for; any
other mnemonic is an assembly error, a line in error produces no word, and the operations of an accepted line are well-formed.
That mnemonics are upper case only is the model's (DESIGN CHOICE, log entry 20). -/
def Obligations.AssembledOperationsAreWellFormed : Prop :=
  ∀ portBits : Nat, portBits ≤ 16 →
    (∀ p ∈ [("EV_TIMER", [Instr.evTimer]), ("EV_PWM_CYCLE", [.evPwmCycle]), ("SVC_TICK", [.svcTick]),
        ("SVC_PORT", [.svcPort]), ("RD_TICK", [.rdTick]), ("RD_KEY", [.rdKey]), ("RD_STATUS", [.rdStatus]),
        ("RD_EVENTS", [.rdEvents]), ("CS_ENTER", [.setIe false]), ("CS_EXIT", [.setIe true]),
        ("STOP_ALL", [.setDuty 1#4 0#16, .setDuty 2#4 0#16]), ("TICK", [.evTimer, .svcTick])],
      ∀ operands, assembleLine portBits ⟨p.1, operands⟩ = if operands = [] then some p.2 else none) ∧
    (∀ operands ops, assembleLine portBits ⟨"EV_PINS", operands⟩ = some ops ↔
      ∃ v : Int, operands = [v] ∧ 0 ≤ v ∧ v ≤ 2 ^ portBits - 1 ∧ ∃ x : Half, (x.toNat : Int) = v ∧ ops = [.evPins x]) ∧
    (∀ operands ops, assembleLine portBits ⟨"PINS", operands⟩ = some ops ↔
      ∃ v : Int, operands = [v] ∧ 0 ≤ v ∧ v ≤ 2 ^ portBits - 1 ∧
        ∃ x : Half, (x.toNat : Int) = v ∧ ops = [.evPins x, .svcPort]) ∧
    (∀ operands ops, assembleLine portBits ⟨"RD_POS", operands⟩ = some ops ↔
      ∃ v : Int, operands = [v] ∧ 0 ≤ v ∧ v ≤ 15 ∧ ∃ w : BitVec 4, (w.toNat : Int) = v ∧ ops = [.rdPos w]) ∧
    (∀ operands ops, assembleLine portBits ⟨"RD_SPEED", operands⟩ = some ops ↔
      ∃ v : Int, operands = [v] ∧ 0 ≤ v ∧ v ≤ 15 ∧ ∃ w : BitVec 4, (w.toNat : Int) = v ∧ ops = [.rdSpeed w]) ∧
    (∀ operands ops, assembleLine portBits ⟨"SET_DUTY", operands⟩ = some ops ↔
      ∃ u v : Int, operands = [u, v] ∧ 0 ≤ u ∧ u ≤ 15 ∧ -32768 ≤ v ∧ v ≤ 32767 ∧
        ∃ (c : BitVec 4) (d : Half), (c.toNat : Int) = u ∧ d.toInt = v ∧ ops = [.setDuty c d]) ∧
    (∀ operands ops, assembleLine portBits ⟨"PWM_INIT", operands⟩ = some ops ↔
      ∃ v : Int, operands = [v] ∧ 0 ≤ v ∧ v ≤ 65535 ∧ ∃ x : Half, (x.toNat : Int) = v ∧ ops = [.pwmInit x]) ∧
    (∀ operands ops, assembleLine portBits ⟨"SET_IE", operands⟩ = some ops ↔
      operands = [0] ∧ ops = [.setIe false] ∨ operands = [1] ∧ ops = [.setIe true]) ∧
    (∀ mnemonic operands, mnemonic ∉ ["EV_TIMER", "EV_PINS", "EV_PWM_CYCLE", "SVC_TICK", "SVC_PORT", "RD_TICK", "RD_POS",
        "RD_SPEED", "RD_KEY", "SET_DUTY", "PWM_INIT", "SET_IE", "RD_STATUS", "RD_EVENTS", "CS_ENTER", "CS_EXIT", "STOP_ALL",
        "TICK", "PINS"] → assembleLine portBits ⟨mnemonic, operands⟩ = none) ∧
    (∀ (lines : List (List Char)) (line : List Char) (l : AsmLine), line ∈ lines → parseLine line = some (some l) →
      assembleLine portBits l = none → assemble portBits lines = none) ∧
    ∀ (l : AsmLine) (ops : List Instr), assembleLine portBits l = some ops → ∀ i ∈ ops, i.wellFormed portBits = true

/-! ## Steps, faults, enabling (00_scope.md, 60_exceptions.md) -/

/-- R5, R7, R95: when the next word of a run decodes, the step is the operation it decodes to on the state without that word
(that the words not yet taken stand in the state is DESIGN CHOICE, log entry 2). -/
def Obligations.StepRunsTheDecodedOperation : Prop :=
  ∀ (s : State) (x : Word) (rest : List Word) (i : Instr),
    s.cfg.admissible = true → s.fault = none → s.trace = x :: rest → decode s.cfg.portBits x = .ok i →
    step s = exec i { s with trace := rest }

/-- R240: "no operation of any agent is enabled afterwards, so the run stops there", whatever word comes next. That the step then
answers the recorded fault is DEDUCED (log entry 4). -/
def Obligations.NothingRunsAfterAFault : Prop :=
  ∀ (s : State) (f : FaultRecord), s.fault = some f →
    (∀ i t, exec i s ≠ .next t) ∧ (∀ t, step s ≠ .next t) ∧
    (s.cfg.admissible = true → step s = .fault f.stop)

/-- R9: where every bullet holds of the configuration no step is refused for it; where one fails every step is refused for it
and no trace, not even the empty one, is a run. `TICK_MODULUS >= 1` is the model's reading (DEDUCED, log entry 10). -/
def Obligations.InadmissibleConfigurationsAreRefused : Prop :=
  ∀ s : State,
    let c := s.cfg
    let everyBullet : Prop :=
      (1 ≤ c.div50ms ∧ 1 ≤ c.div100ms ∧ 1 ≤ c.div1s ∧ 1 ≤ c.tickModulus ∧ c.div50ms ∣ c.tickModulus ∧
        c.div100ms ∣ c.tickModulus ∧ c.div1s ∣ c.tickModulus) ∧
      c.tickModulus ≤ 65536 ∧
      (1 ≤ c.debounceTicks ∧ c.debounceTicks ≤ 255) ∧
      ([c.pinW1A, c.pinW1B, c.pinW2A, c.pinW2B, c.pinKey].Nodup ∧
        (∀ p ∈ [c.pinW1A, c.pinW1B, c.pinW2A, c.pinW2B, c.pinKey], p < c.portBits) ∧ c.portBits ≤ 16) ∧
      (1 ≤ c.ticksPerRev ∧ 1 ≤ c.samplePeriodMs) ∧
      (1 ≤ c.pwmResBits ∧ c.pwmResBits ≤ c.dutyInBits ∧ c.dutyInBits ≤ 15) ∧
      c.maxDuty ≤ 2 ^ c.dutyInBits - 1 ∧
      (c.posBits = 16 ∧ c.speedBits = 16)
    (everyBullet → step s ≠ .refused .inadmissibleConfig ∧ (s.fault = none → SafeRun [] s)) ∧
    (¬ everyBullet → step s = .refused .inadmissibleConfig ∧ ∀ ws, runTrace ws s = .notARun)

/-- R7, R12, R240, R244, R182: an operation has a step exactly when it is enabled; where no fault is recorded and it is not
enabled it has none (the refusal `notEnabled` stands for that: DEDUCED, log entry 3). -/
def Obligations.OperationsStepExactlyWhenEnabled : Prop :=
  ∀ (i : Instr) (s : State),
    ((∃ t, exec i s = .next t) ↔ enabled i s = true) ∧
    (s.fault = none → enabled i s = false → exec i s = .refused .notEnabled)

/-- R244: "SVC_TICK is enabled exactly when `tmr_pend = 1 and ie = 1`. SVC_PORT is enabled exactly when `pc_pend = 1 and
ie = 1`." While `ie = 0` neither runs, and no other operation clears a pending flag. -/
def Obligations.ServicesAreEnabledExactlyWhenPendingAndUnmasked : Prop :=
  (∀ s : State, s.fault = none →
    ((∃ t, exec .svcTick s = .next t) ↔ (s.tmrPend = true ∧ s.ie = true)) ∧
    ((∃ t, exec .svcPort s = .next t) ↔ (s.pcPend = true ∧ s.ie = true))) ∧
  ∀ (i : Instr) (s t : State), s.ie = false → exec i s = .next t →
    (s.tmrPend = true → t.tmrPend = true) ∧ (s.pcPend = true → t.pcPend = true)

/-- R240, R241, R242: an enabled operation raises a fault exactly for the causes of R241, and a fault discards every other
write: the state is as it was, with the code and the operation's word recorded (the word as `encode` gives it: DEDUCED, log
entry 5). -/
def Obligations.FaultsDiscardEveryWrite : Prop :=
  ∀ (i : Instr) (s t : State), exec i s = .next t →
    (t.fault ≠ none ↔ raisesFault i s = true) ∧
    (t.fault ≠ none →
      t = faultedWith (if i.selLegal then .pwmReinit else .illegalSelect) (encode i) s)

/-! ## The operations of each agent -/

/-- R120, EV_TIMER. -/
def Obligations.TimerExpiryPendsAndRecordsALoss : Prop :=
  Instr.evTimer.agent = .timer ∧
  EncodedBy 0x10000000#32 0xFFFFFFFF#32 (fun _ => .evTimer) ∧
  ∀ s : State, s.fault = none →
    exec .evTimer s = .next { s with
      tmrOverrun := s.tmrOverrun || (s.tmrPend && s.tickArmed)
      tmrPend := true }

/-- R160, EV_PINS: the port pends when a monitored pin changes. -/
def Obligations.PinChangePendsThePort : Prop :=
  (∀ v, (Instr.evPins v).agent = .port) ∧
  EncodedBy 0x20000000#32 0xFFFFFF00#32 (fun x => .evPins (x.setWidth 8 |>.setWidth 16)) ∧
  ∀ (s : State) (v : Half), s.fault = none →
    ∃ t, exec (.evPins v) s = .next t ∧
      t = { s with portPins := v, pcPend := t.pcPend } ∧
      (t.pcPend = true ↔
        s.pcPend = true ∨ ∃ k, v.getLsbD k ≠ s.portPins.getLsbD k ∧ s.cfg.monMask.getLsbD k = true)

/-- R182, EV_PWM_CYCLE. -/
def Obligations.CarrierStartsAtAFullCycleAfterInit : Prop :=
  Instr.evPwmCycle.agent = .pwmTimer ∧
  EncodedBy 0x30000000#32 0xFFFFFFFF#32 (fun _ => .evPwmCycle) ∧
  ∀ s : State, s.fault = none →
    (s.pwmInitDone = true → exec .evPwmCycle s = .next { s with pwmRunning := true }) ∧
    (s.pwmInitDone = false → ∀ t, exec .evPwmCycle s ≠ .next t)

/-- R121, R122, R141, R200, SVC_TICK: everything the tick service writes, in one state: the count, the debounce machine,
the event flags, the speed samples and the pending flag. Nothing else changes. In a state that is `Bouncing` with a countdown of
0, which no run reaches (R51 item 2), the result is the model's: the countdown wraps (DESIGN CHOICE, log entry 14). -/
def Obligations.TickServiceEffect : Prop :=
  Instr.svcTick.agent = .block ∧
  EncodedBy 0x40000000#32 0xFFFFFFFF#32 (fun _ => .svcTick) ∧
  ∀ s : State, s.fault = none → s.tmrPend = true → s.ie = true →
    let k := (s.tick + 1) % s.cfg.tickModulus
    let counting := s.dbState = .bouncing
    let promoting := s.dbState = .bouncing ∧ s.countdown = 1#8
    let sampling := k % s.cfg.div100ms = 0
    let sample := fun w : Ident =>
      BitVec.ofInt 16 (max (-32768) (min 32767
        (Int.tdiv ((s.position.get w - s.prevPosition.get w).toInt * (s.cfg.wheelCircMm * 1000))
          (s.cfg.ticksPerRev * s.cfg.samplePeriodMs))))
    exec .svcTick s = .next { s with
      tick := k
      ev50ms := s.ev50ms || decide (k % s.cfg.div50ms = 0)
      ev100ms := s.ev100ms || decide (k % s.cfg.div100ms = 0)
      ev1s := s.ev1s || decide (k % s.cfg.div1s = 0)
      tmrPend := false
      countdown := if counting then s.countdown - 1#8 else s.countdown
      stableLevel := if promoting then s.rawLevel else s.stableLevel
      pressEvent :=
        s.pressEvent ||
          decide (promoting ∧ s.rawLevel = s.cfg.keyActiveLevel ∧ s.stableLevel ≠ s.cfg.keyActiveLevel)
      dbState :=
        if promoting then (if s.rawLevel = s.cfg.keyActiveLevel then .pressed else .idle) else s.dbState
      speed := if sampling then ⟨sample .one, sample .two⟩ else s.speed
      prevPosition := if sampling then s.position else s.prevPosition }

/-- R142, R161, R162, R163, SVC_PORT: both wheels and the key from one snapshot of the pins. The count of a wheel is stated by
the cycle `0 -> 2 -> 3 -> 1 -> 0` of R164, not by the table. -/
def Obligations.PortServiceEffect : Prop :=
  Instr.svcPort.agent = .block ∧
  EncodedBy 0x50000000#32 0xFFFFFFFF#32 (fun _ => .svcPort) ∧
  ∀ s : State, s.fault = none → s.pcPend = true → s.ie = true →
    let cur := fun w : Ident =>
      BitVec.ofNat 2 ((s.portPins.getLsbD (pinA s.cfg w)).toNat * 2 + (s.portPins.getLsbD (pinB s.cfg w)).toNat)
    let count := fun w : Ident =>
      (if cur w = cycleNext (s.prevState.get w) then 1#16 else 0#16)
        - (if s.prevState.get w = cycleNext (cur w) then 1#16 else 0#16)
    let key := s.portPins.getLsbD s.cfg.pinKey
    exec .svcPort s = .next { s with
      pcPend := false
      position := ⟨s.position.one + count .one, s.position.two + count .two⟩
      prevState := ⟨cur .one, cur .two⟩
      rawLevel := key
      countdown := if key = s.rawLevel then s.countdown else BitVec.ofNat 8 s.cfg.debounceTicks
      dbState := if key = s.rawLevel then s.dbState else .bouncing }

/-- R123, RD_TICK. The tick is given exactly, since it is below `TICK_MODULUS`, at most 65536. -/
def Obligations.ReadTickReturnsTheTick : Prop :=
  Instr.rdTick.agent = .host ∧
  EncodedBy 0x60000000#32 0xFFFFFFFF#32 (fun _ => .rdTick) ∧
  ∀ s : State, s.fault = none → s.tick < 65536 →
    ∃ v : Half, v.toNat = s.tick ∧ exec .rdTick s = .next { s with returned := s.returned ++ [v] }

/-- R165, RD_POS: wheels 1 and 2; any other `sel` records `ILLEGAL_SELECT` and nothing else. -/
def Obligations.ReadPositionReturnsThePosition : Prop :=
  (∀ w, (Instr.rdPos w).agent = .host) ∧
  EncodedBy 0x70000000#32 0xF0FFFFFF#32 (fun x => .rdPos (x.extractLsb' 24 4)) ∧
  ∀ s : State, s.fault = none →
    exec (.rdPos 1#4) s = .next { s with returned := s.returned ++ [s.position.one] } ∧
    exec (.rdPos 2#4) s = .next { s with returned := s.returned ++ [s.position.two] } ∧
    ∀ w : BitVec 4, w ≠ 1#4 → w ≠ 2#4 →
      exec (.rdPos w) s = .next (faultedWith .illegalSelect (0x7#4 ++ w ++ 0#24) s)

/-- R202, RD_SPEED. -/
def Obligations.ReadSpeedReturnsTheLatestSample : Prop :=
  (∀ w, (Instr.rdSpeed w).agent = .host) ∧
  EncodedBy 0x80000000#32 0xF0FFFFFF#32 (fun x => .rdSpeed (x.extractLsb' 24 4)) ∧
  ∀ s : State, s.fault = none →
    exec (.rdSpeed 1#4) s = .next { s with returned := s.returned ++ [s.speed.one] } ∧
    exec (.rdSpeed 2#4) s = .next { s with returned := s.returned ++ [s.speed.two] } ∧
    ∀ w : BitVec 4, w ≠ 1#4 → w ≠ 2#4 →
      exec (.rdSpeed w) s = .next (faultedWith .illegalSelect (0x8#4 ++ w ++ 0#24) s)

/-- R143, RD_KEY: read and clear, the debounce machine untouched. -/
def Obligations.ReadKeyReportsAndClears : Prop :=
  Instr.rdKey.agent = .host ∧
  EncodedBy 0x90000000#32 0xFFFFFFFF#32 (fun _ => .rdKey) ∧
  ∀ s : State, s.fault = none →
    exec .rdKey s = .next { s with
      pressEvent := false
      returned := s.returned ++ [if s.pressEvent then 1#16 else 0#16] }

/-- R180, SET_DUTY: the signed duty is clamped, then shifted; the other channel is unchanged; a bad channel records
`ILLEGAL_SELECT` and writes no duty. -/
def Obligations.SetDutyClampsThenShifts : Prop :=
  (∀ c d, (Instr.setDuty c d).agent = .host) ∧
  EncodedBy 0xA0000000#32 0xF0FF0000#32 (fun x => .setDuty (x.extractLsb' 24 4) (x.setWidth 16)) ∧
  ∀ (s : State) (d : Half), s.fault = none →
    let hw := (max 0 (min d.toInt s.cfg.maxDuty)).toNat >>> (s.cfg.dutyInBits - s.cfg.pwmResBits)
    exec (.setDuty 1#4 d) s = .next { s with dutyHw := ⟨hw, s.dutyHw.two⟩ } ∧
    exec (.setDuty 2#4 d) s = .next { s with dutyHw := ⟨s.dutyHw.one, hw⟩ } ∧
    ∀ c : BitVec 4, c ≠ 1#4 → c ≠ 2#4 →
      exec (.setDuty c d) s = .next (faultedWith .illegalSelect (0xA#4 ++ c ++ 0#8 ++ d) s)

/-- R181, PWM_INIT: once; a second one records `PWM_REINIT` and writes nothing. -/
def Obligations.PwmInitRunsOnce : Prop :=
  (∀ p, (Instr.pwmInit p).agent = .host) ∧
  EncodedBy 0xB0000000#32 0xFFFF0000#32 (fun x => .pwmInit (x.setWidth 16)) ∧
  ∀ (s : State) (p : Half), s.fault = none →
    (s.pwmInitDone = false → exec (.pwmInit p) s = .next { s with pwmPeriod := p, pwmInitDone := true }) ∧
    (s.pwmInitDone = true → exec (.pwmInit p) s = .next (faultedWith .pwmReinit (0xB000#16 ++ p) s))

/-- R220, SET_IE: the enable bit, and arming on the first enable. Pending flags stay. -/
def Obligations.SetInterruptEnable : Prop :=
  (∀ b, (Instr.setIe b).agent = .host) ∧
  EncodedBy 0xC0000000#32 0xFFFFFFFE#32 (fun x => .setIe (x.getLsbD 0)) ∧
  ∀ s : State, s.fault = none →
    exec (.setIe true) s = .next { s with ie := true, tickArmed := true } ∧
    exec (.setIe false) s = .next { s with ie := false }

/-- R221, R222, RD_STATUS: every bit of the status word, and no side effect. -/
def Obligations.StatusWordLayout : Prop :=
  Instr.rdStatus.agent = .host ∧
  EncodedBy 0xD0000000#32 0xFFFFFFFF#32 (fun _ => .rdStatus) ∧
  ∀ s : State, s.fault = none →
    ∃ v : Half, exec .rdStatus s = .next { s with returned := s.returned ++ [v] } ∧
      v.getLsbD 0 = s.tmrPend ∧ v.getLsbD 1 = s.pcPend ∧ v.getLsbD 2 = s.ie ∧ v.getLsbD 3 = s.tickArmed ∧
      v.getLsbD 4 = s.tmrOverrun ∧ v.getLsbD 5 = s.pwmInitDone ∧ v.getLsbD 6 = s.pwmRunning ∧
      v.getLsbD 7 = decide (s.dbState = .bouncing) ∧ v.getLsbD 8 = s.stableLevel ∧ v.getLsbD 9 = s.rawLevel ∧
      v.getLsbD 10 = s.pressEvent ∧ v.getLsbD 11 = s.ev50ms ∧ v.getLsbD 12 = s.ev100ms ∧ v.getLsbD 13 = s.ev1s ∧
      v.getLsbD 14 = false ∧ v.getLsbD 15 = false

/-- R124, RD_EVENTS: bit 0 is `ev_50ms`, bit 1 `ev_100ms`, bit 2 `ev_1s`; all three are cleared. -/
def Obligations.ReadEventsReportsAndClears : Prop :=
  Instr.rdEvents.agent = .host ∧
  EncodedBy 0xE0000000#32 0xFFFFFFFF#32 (fun _ => .rdEvents) ∧
  ∀ s : State, s.fault = none →
    ∃ v : Half, v.toNat = s.ev50ms.toNat + 2 * s.ev100ms.toNat + 4 * s.ev1s.toNat ∧
      exec .rdEvents s = .next { s with
        ev50ms := false
        ev100ms := false
        ev1s := false
        returned := s.returned ++ [v] }

/-- R185: "gate_duty(c) = duty_hw[c] if pwm_running = 1, = 0 otherwise". -/
def Obligations.GateShowsTheDutyOnlyWhileTheCarrierRuns : Prop :=
  ∀ (s : State) (c : Ident),
    (s.pwmRunning = true → gateDuty s c = s.dutyHw.get c) ∧ (s.pwmRunning = false → gateDuty s c = 0)

/-! ## Reset (70_reset_and_hazards.md) -/

/-- R270, R222: the value of every state element after power-on, under any configuration and any level of the pins; the status
word reads 0x0000. -/
def Obligations.PowerOnValues : Prop :=
  ∀ (c : Config) (pins : Half),
    let s := State.powerOn c pins
    s.tick = 0 ∧ s.ev50ms = false ∧ s.ev100ms = false ∧ s.ev1s = false ∧ s.tmrPend = false ∧ s.tmrOverrun = false ∧
    s.tickArmed = false ∧ s.dbState = .idle ∧ s.rawLevel = false ∧ s.stableLevel = false ∧ s.countdown = 0#8 ∧
    s.pressEvent = false ∧ s.pcPend = false ∧ (∀ w, s.prevState.get w = 0#2) ∧ (∀ w, s.position.get w = 0#16) ∧
    (∀ ch, s.dutyHw.get ch = 0) ∧ s.pwmPeriod = 0#16 ∧ s.pwmInitDone = false ∧ s.pwmRunning = false ∧
    (∀ w, s.prevPosition.get w = 0#16) ∧ (∀ w, s.speed.get w = 0#16) ∧ s.ie = false ∧ s.portPins = pins ∧
    s.fault = none ∧ exec .rdStatus s = .next { s with returned := [0x0000#16] }

/-- R271: "After reset the services are masked (`ie = 0`)": which operations are enabled at reset. -/
def Obligations.OperationsEnabledAtReset : Prop :=
  ∀ (c : Config) (pins : Half) (i : Instr),
    enabled i (State.powerOn c pins) = true ↔
      (i = .evTimer ∨ (∃ v, i = .evPins v) ∨ i.agent = .host)

/-! ## Invariants (10_state.md) -/

/-- R51 holds right after power-on under every admissible configuration, and in `State.reset`. `port_pins` at `State.reset`
is the model's choice (DESIGN CHOICE, log entry 9). -/
def Obligations.InvariantHoldsAtReset : Prop :=
  (∀ (c : Config) (pins : Half), c.admissible = true → pins.toNat < 2 ^ c.portBits → Inv (State.powerOn c pins)) ∧
  Inv State.reset

/-- R51: every step of the machine keeps the invariants, from every state that has them. -/
def Obligations.EveryStepKeepsTheInvariant : Prop :=
  ∀ s t : State, Inv s → step s = .next t → Inv t

/-- R8: "A configuration stays fixed for a whole run. No operation writes it." -/
def Obligations.ConfigurationStaysFixed : Prop :=
  ∀ s t : State, step s = .next t → t.cfg = s.cfg

/-- R35, R36, R47: no operation clears `tmr_overrun`, `tick_armed`, `pwm_init_done` or `pwm_running`. -/
def Obligations.StickyBitsAreNeverCleared : Prop :=
  ∀ s t : State, step s = .next t →
    (s.tmrOverrun = true → t.tmrOverrun = true) ∧ (s.tickArmed = true → t.tickArmed = true) ∧
    (s.pwmInitDone = true → t.pwmInitDone = true) ∧ (s.pwmRunning = true → t.pwmRunning = true)

/-- R250 (and R50): "The Host cannot write the tick counter, the encoder state or the debounce state, and it
cannot set or clear a pending flag." `press_event`, which RD_KEY clears, is the debounce unit's report, not its state. -/
def Obligations.HostCannotWriteInterruptState : Prop :=
  ∀ (i : Instr) (s t : State), i.agent = .host → exec i s = .next t →
    t.tick = s.tick ∧ t.prevState = s.prevState ∧ t.position = s.position ∧
    t.dbState = s.dbState ∧ t.rawLevel = s.rawLevel ∧ t.stableLevel = s.stableLevel ∧ t.countdown = s.countdown ∧
    t.tmrPend = s.tmrPend ∧ t.pcPend = s.pcPend ∧ t.portPins = s.portPins ∧
    t.prevPosition = s.prevPosition ∧ t.speed = s.speed ∧ t.tmrOverrun = s.tmrOverrun ∧ t.pwmRunning = s.pwmRunning

/-- R50, the "written by" column of the access table: an element that a step changes was changed by an operation the table
lists for it. -/
def Obligations.AccessTableOfWrites : Prop :=
  ∀ (i : Instr) (s t : State), exec i s = .next t →
    (t.tick ≠ s.tick → i = .svcTick) ∧
    (t.ev50ms ≠ s.ev50ms ∨ t.ev100ms ≠ s.ev100ms ∨ t.ev1s ≠ s.ev1s → i = .svcTick ∨ i = .rdEvents) ∧
    (t.tmrPend ≠ s.tmrPend → i = .evTimer ∨ i = .svcTick) ∧
    (t.tmrOverrun ≠ s.tmrOverrun → i = .evTimer) ∧
    (t.tickArmed ≠ s.tickArmed → i = .setIe true) ∧
    (t.dbState ≠ s.dbState ∨ t.countdown ≠ s.countdown → i = .svcTick ∨ i = .svcPort) ∧
    (t.rawLevel ≠ s.rawLevel → i = .svcPort) ∧ (t.stableLevel ≠ s.stableLevel → i = .svcTick) ∧
    (t.pressEvent ≠ s.pressEvent → i = .svcTick ∨ i = .rdKey) ∧
    (t.portPins ≠ s.portPins → ∃ v, i = .evPins v) ∧
    (t.pcPend ≠ s.pcPend → (∃ v, i = .evPins v) ∨ i = .svcPort) ∧
    (t.prevState ≠ s.prevState ∨ t.position ≠ s.position → i = .svcPort) ∧
    (t.dutyHw ≠ s.dutyHw → ∃ c d, i = .setDuty c d) ∧
    (t.pwmPeriod ≠ s.pwmPeriod ∨ t.pwmInitDone ≠ s.pwmInitDone → ∃ p, i = .pwmInit p) ∧
    (t.pwmRunning ≠ s.pwmRunning → i = .evPwmCycle) ∧
    (t.prevPosition ≠ s.prevPosition ∨ t.speed ≠ s.speed → i = .svcTick) ∧
    (t.ie ≠ s.ie → ∃ b, i = .setIe b)

/-- R14: "Every Host read operation returns exactly one 16-bit value", and an operation that is not a read returns nothing. -/
def Obligations.ReadsReturnExactlyOneValue : Prop :=
  ∀ (i : Instr) (s t : State), exec i s = .next t → t.fault = none →
    (isRead i = true → ∃ v : Half, t.returned = s.returned ++ [v]) ∧ (isRead i = false → t.returned = s.returned)

/-- R76: side effects on read, and idempotency. -/
def Obligations.RepeatedOperations : Prop :=
  ∀ s t : State, s.fault = none →
    (∀ i, i = .rdTick ∨ i = .rdStatus ∨ (∃ w, i = .rdPos w) ∨ (∃ w, i = .rdSpeed w) → exec i s = .next t →
      t.fault = none → ∃ v, t = { s with returned := s.returned ++ [v] } ∧
        exec i t = .next { t with returned := t.returned ++ [v] }) ∧
    (∀ i, i = .rdKey ∨ i = .rdEvents → exec i s = .next t →
      exec i t = .next { t with returned := t.returned ++ [0#16] }) ∧
    (∀ i, (∃ b, i = .setIe b) ∨ (∃ c d, i = .setDuty c d) → exec i s = .next t → t.fault = none →
      exec i t = .next t) ∧
    (∀ p q, exec (.pwmInit p) s = .next t → t.fault = none →
      exec (.pwmInit q) t = .next (faultedWith .pwmReinit (0xB000#16 ++ q) t))

/-! ## Laws of the tick unit (40_tick.md) -/

/-- R126, the counting law: after any run with `k` SVC_TICK the tick has advanced by `k` modulo `TICK_MODULUS`; each service sets
the flags whose divisor divides the new tick; from a tick of 0 there are `floor(k / D)` such services for each divisor, and
each one at the 100 ms divisor samples both wheels. -/
def Obligations.CountingLaw : Prop :=
  (∀ (ops : List Instr) (s t : State), s.cfg.admissible = true → s.tick < s.cfg.tickModulus → execAll ops s = .next t →
    t.tick = (s.tick + ops.count .svcTick) % s.cfg.tickModulus) ∧
  (∀ s t : State, exec .svcTick s = .next t →
    t.ev50ms = (s.ev50ms || isEventTick s.cfg.div50ms .svcTick s t) ∧
    t.ev100ms = (s.ev100ms || isEventTick s.cfg.div100ms .svcTick s t) ∧
    t.ev1s = (s.ev1s || isEventTick s.cfg.div1s .svcTick s t) ∧
    (isEventTick s.cfg.div100ms .svcTick s t = true → t.prevPosition = s.position) ∧
    (isEventTick s.cfg.div100ms .svcTick s t = false → t.prevPosition = s.prevPosition ∧ t.speed = s.speed)) ∧
  ∀ (ops : List Instr) (s t : State), s.cfg.admissible = true → s.tick = 0 → execAll ops s = .next t →
    ∀ d, d = s.cfg.div50ms ∨ d = s.cfg.div100ms ∨ d = s.cfg.div1s →
      countSteps (isEventTick d) ops s = ops.count .svcTick / d

/-- R281: while `ie = 0`, each EV_TIMER after the first merges into the pending one, and once the services have been armed this
sets `tmr_overrun`. -/
def Obligations.MaskedTicksAreLostAndRecorded : Prop :=
  ∀ (ops : List Instr) (s t : State), s.ie = false → s.tickArmed = true → Instr.setIe true ∉ ops →
    execAll ops s = .next t → 2 ≤ ops.count .evTimer →
    t.tmrOverrun = true ∧ t.tmrPend = true ∧ t.tick = s.tick

/-! ## Laws of the debounce unit (41_debounce.md) -/

/-- R144, the settling law. A port service changes `raw_level`; along the run after it no port service changes it again. Then
before the `DEBOUNCE_TICKS`-th SVC_TICK `stable_level` keeps its value and the machine is still counting, and from that
service on `stable_level` is the new level and the machine has settled. -/
def Obligations.SettlingLaw : Prop :=
  ∀ (s₀ s t : State) (ops : List Instr) (v : Bool), s₀.cfg.admissible = true →
    exec .svcPort s₀ = .next s → s₀.rawLevel ≠ v → s.rawLevel = v →
    execAll ops s = .next t → Along (fun u => u.rawLevel = v) ops s →
    (ops.count .svcTick < s.cfg.debounceTicks →
      t.stableLevel = s.stableLevel ∧ t.dbState = .bouncing ∧
        t.countdown.toNat = s.cfg.debounceTicks - ops.count .svcTick) ∧
    (s.cfg.debounceTicks ≤ ops.count .svcTick →
      t.stableLevel = v ∧ t.dbState = (if v = s.cfg.keyActiveLevel then .pressed else .idle))

/-- R145, the edge law. `press_event` is set only by a promotion from not active to active; between two such promotions there
is a confirmed release; so RD_KEY returns 1 at most once for each confirmed press edge, and after a 1 it returns 0 until a
new confirmed press edge. -/
def Obligations.EdgeLaw : Prop :=
  (∀ (i : Instr) (s t : State), exec i s = .next t → s.pressEvent = false → t.pressEvent = true →
    i = .svcTick ∧ s.stableLevel ≠ s.cfg.keyActiveLevel ∧ t.stableLevel = s.cfg.keyActiveLevel) ∧
  (∀ (ops : List Instr) (s t : State), execAll ops s = .next t → s.stableLevel = s.cfg.keyActiveLevel →
    countSteps isPressEdge ops s ≤ countSteps isRelease ops s) ∧
  (∀ (ops : List Instr) (s t : State), execAll ops s = .next t → s.pressEvent = false →
    countSteps isKeyReport ops s ≤ countSteps isPressEdge ops s) ∧
  ∀ (ops : List Instr) (s t u : State), exec .rdKey s = .next t → execAll ops t = .next u →
    countSteps isPressEdge ops t = 0 → countSteps isKeyReport ops t = 0

/-! ## Laws of the quadrature unit (42_quadrature.md) -/

/-- R164: the shape of the decode table: 0 for a repeat and for a diagonal, otherwise +1 along the cycle and -1 against it, each
transition and its reverse of opposite signs. -/
def Obligations.DecodeTableShape : Prop :=
  ∀ prev cur : BitVec 2,
    (prev = cur ∨ prev ^^^ cur = 3#2 → qtab prev cur = 0) ∧
    (oneBitApart prev cur = true → qtab prev cur = (if cur = cycleNext prev then 1 else -1)) ∧
    qtab prev cur = - qtab cur prev

/-- R166: a port service changes each position by -1, 0 or +1, modulo 2^16, and nothing but a port service changes it. -/
def Obligations.PositionChangesByAtMostOne : Prop :=
  ∀ (i : Instr) (s t : State) (w : Ident), exec i s = .next t →
    t.position.get w = s.position.get w ∨
      (i = .svcPort ∧
        (t.position.get w = s.position.get w + 1#16 ∨ t.position.get w = s.position.get w - 1#16))

/-- R167, exact counting. In any run, with ticks, Host operations, and changes of the key and of the other wheel in between, if
each change of the wheel's pins is of one bit and is served before the wheel's next change, then the net change is the steps
along `0 -> 2 -> 3 -> 1 -> 0` minus the steps against it, modulo 2^16. The second clause is about pin changes each followed by its
service from a state whose pins may differ from the state last serviced. -/
def Obligations.ExactCounting : Prop :=
  (∀ (ops : List Instr) (s t : State) (w : Ident), execAll ops s = .next t →
    s.prevState.get w = wheelState s.cfg w s.portPins →
    servedInTurn s.cfg w (s.prevState.get w) (s.prevState.get w) ops = true →
    t.position.get w = s.position.get w + BitVec.ofInt 16 (netSteps (s.prevState.get w) (wheelPath s.cfg w ops)) ∧
      t.prevState.get w = wheelState t.cfg w t.portPins) ∧
  ∀ (vs : List Half) (s t : State) (w : Ident),
    execAll (vs.flatMap fun v => [.evPins v, .svcPort]) s = .next t →
    grayPath (s.prevState.get w) (vs.map (wheelState s.cfg w)) = true →
    t.position.get w =
      s.position.get w + BitVec.ofInt 16 (netSteps (s.prevState.get w) (vs.map (wheelState s.cfg w)))

/-- R167, R282: several pin changes before one service are decoded as one transition from the last serviced state to the last
pin state; the states between are lost. -/
def Obligations.MergedPinChanges : Prop :=
  ∀ (vs : List Half) (v : Half) (s t : State) (w : Ident),
    execAll (vs.map Instr.evPins ++ [.evPins v, .svcPort]) s = .next t →
    t.prevState.get w = wheelState s.cfg w v ∧
    t.position.get w =
      s.position.get w + BitVec.ofInt 16 (netSteps (s.prevState.get w) [wheelState s.cfg w v])

/-- R283: after power-on the first port service counts from wheel state 0, whatever the pins showed: -1, +1 or 0 for the wheel
state 1, 2 or 3 (and 0 for 0), with no motion behind it. -/
def Obligations.FirstServiceCountsFromZero : Prop :=
  ∀ (c : Config) (pins : Half) (ops : List Instr) (s t : State) (w : Ident), Instr.svcPort ∉ ops →
    execAll ops (State.powerOn c pins) = .next s → exec .svcPort s = .next t →
    t.position.get w =
      if wheelState c w s.portPins = 1#2 then -1#16
      else if wheelState c w s.portPins = 2#2 then 1#16 else 0#16

/-- R284: with the key pin at level 1 at the first port service after power-on, whatever the service's cause, that service
starts the countdown, although the key never changed; and when level 1 is the active level, `DEBOUNCE_TICKS` ticks later, with
no further key change seen, a press edge is recorded and stays until an RD_KEY. -/
def Obligations.KeyHeldAtResetIsReportedAsAPress : Prop :=
  ∀ (c : Config) (pins : Half) (ops : List Instr) (s t : State), c.admissible = true → Instr.svcPort ∉ ops →
    execAll ops (State.powerOn c pins) = .next s → keyBit c s.portPins = true → exec .svcPort s = .next t →
    t.dbState = .bouncing ∧ t.rawLevel = true ∧ t.countdown.toNat = c.debounceTicks ∧
    ∀ (later : List Instr) (u : State), c.keyActiveLevel = true → execAll later t = .next u →
      Along (fun x => x.rawLevel = true) later t → Instr.rdKey ∉ later → c.debounceTicks ≤ later.count .svcTick →
      u.pressEvent = true ∧ u.dbState = .pressed

/-! ## Laws of the PWM unit (43_pwm.md) -/

/-- R186, the clamp law: the bounds, the two ends, and monotonicity of the conversion. -/
def Obligations.ClampLaw : Prop :=
  ∀ c : Config, c.admissible = true →
    (∀ d : Half,
      dutyOperand c d ≤ c.maxDuty >>> (c.dutyInBits - c.pwmResBits) ∧ dutyOperand c d < 2 ^ c.pwmResBits ∧
      (d.toInt ≤ 0 → dutyOperand c d = 0) ∧
      ((c.maxDuty : Int) ≤ d.toInt → dutyOperand c d = c.maxDuty >>> (c.dutyInBits - c.pwmResBits))) ∧
    (∀ d₁ d₂ : Half, d₁.toInt ≤ d₂.toInt → dutyOperand c d₁ ≤ dutyOperand c d₂) ∧
    ∀ (s : State) (d : Half), s.cfg = c → s.fault = none →
      (∃ t, exec (.setDuty 1#4 d) s = .next t ∧ t.dutyHw.one = dutyOperand c d) ∧
      (∃ t, exec (.setDuty 2#4 d) s = .next t ∧ t.dutyHw.two = dutyOperand c d)

/-- R182, R185, R273: from power-on, a gate shows a duty other than 0 only after a PWM_INIT and a full carrier cycle after it. -/
def Obligations.GatesStayInactiveUntilTheCarrierStarts : Prop :=
  ∀ (c : Config) (pins : Half) (ops : List Instr) (t : State) (ch : Ident),
    execAll ops (State.powerOn c pins) = .next t → gateDuty t ch ≠ 0 →
    ∃ before period between after,
      ops = before ++ Instr.pwmInit period :: (between ++ Instr.evPwmCycle :: after)

/-! ## Laws of the speed unit (44_speed.md) -/

/-- R203: every SVC_TICK whose new tick is a multiple of `DIV_100MS` writes both speeds, no other operation writes them, and
after `k` SVC_TICK from reset there have been exactly `floor(k / DIV_100MS)` samples. -/
def Obligations.OneSamplePerMacroPeriod : Prop :=
  (∀ (i : Instr) (s t : State), exec i s = .next t → isEventTick s.cfg.div100ms i s t = false → t.speed = s.speed) ∧
  (∀ (s t : State) (w : Ident), exec .svcTick s = .next t → isEventTick s.cfg.div100ms .svcTick s t = true →
    t.speed.get w =
      BitVec.ofInt 16 (max (-32768) (min 32767
        (Int.tdiv ((s.position.get w - s.prevPosition.get w).toInt * (s.cfg.wheelCircMm * 1000))
          (s.cfg.ticksPerRev * s.cfg.samplePeriodMs))))) ∧
  ∀ (c : Config) (pins : Half) (ops : List Instr) (t : State), c.admissible = true →
    execAll ops (State.powerOn c pins) = .next t →
    countSteps (isEventTick c.div100ms) ops (State.powerOn c pins) = ops.count .svcTick / c.div100ms

/-- R204, the zero law: if a position is the same at two consecutive samples, the second sample gives speed 0. -/
def Obligations.ZeroLaw : Prop :=
  ∀ (s₀ s₁ s₂ s₃ : State) (ops : List Instr) (w : Ident),
    exec .svcTick s₀ = .next s₁ → isEventTick s₀.cfg.div100ms .svcTick s₀ s₁ = true →
    execAll ops s₁ = .next s₂ → countSteps (isEventTick s₀.cfg.div100ms) ops s₁ = 0 →
    exec .svcTick s₂ = .next s₃ → isEventTick s₀.cfg.div100ms .svcTick s₂ s₃ = true →
    s₂.position.get w = s₀.position.get w →
    s₃.speed.get w = 0#16

/-- R205, the sign law: at a sample the speed has the sign of the count difference or is 0; with `WHEEL_CIRC_MM = 0` every speed
is 0; and it is 0 where `|delta| * SPEED_NUM < SPEED_DEN`. -/
def Obligations.SignLaw : Prop :=
  ∀ (s t : State) (w : Ident), s.cfg.admissible = true → exec .svcTick s = .next t →
    isEventTick s.cfg.div100ms .svcTick s t = true →
    (0 < (t.speed.get w).toInt → 0 < (s.position.get w - s.prevPosition.get w).toInt) ∧
    ((t.speed.get w).toInt < 0 → (s.position.get w - s.prevPosition.get w).toInt < 0) ∧
    (s.cfg.wheelCircMm = 0 → t.speed.get w = 0#16) ∧
    ((s.position.get w - s.prevPosition.get w).toInt.natAbs * (s.cfg.wheelCircMm * 1000) <
        s.cfg.ticksPerRev * s.cfg.samplePeriodMs → t.speed.get w = 0#16)

/-! ## Ordering and services (20_memory.md, 60_exceptions.md) -/

/-- R79: inside a critical section, whatever events come between the Host's operations, no service runs: the tick, debounce,
quadrature and speed units stay as they are, but for the flags the Host's own read-and-clear reads clear. -/
def Obligations.CriticalSectionsFreezeTheUnits : Prop :=
  ∀ (ops : List Instr) (s t : State), s.ie = false → Instr.setIe true ∉ ops → execAll ops s = .next t →
    Instr.svcTick ∉ ops ∧ Instr.svcPort ∉ ops ∧ t.ie = false ∧
    t.tick = s.tick ∧ t.dbState = s.dbState ∧ t.rawLevel = s.rawLevel ∧ t.stableLevel = s.stableLevel ∧
    t.countdown = s.countdown ∧ t.prevState = s.prevState ∧ t.position = s.position ∧
    t.prevPosition = s.prevPosition ∧ t.speed = s.speed ∧
    (t.pressEvent = s.pressEvent ∨ (Instr.rdKey ∈ ops ∧ t.pressEvent = false)) ∧
    ((t.ev50ms = s.ev50ms ∧ t.ev100ms = s.ev100ms ∧ t.ev1s = s.ev1s) ∨
      (Instr.rdEvents ∈ ops ∧ t.ev50ms = false ∧ t.ev100ms = false ∧ t.ev1s = false))

/-- R81: a confirmed press edge is never lost between the read and the clear: from a set `press_event`, the next RD_KEY of any
run returns 1. -/
def Obligations.PressEdgesWaitForTheNextRead : Prop :=
  ∀ (ops : List Instr) (s t : State), s.pressEvent = true → Instr.rdKey ∉ ops → execAll ops s = .next t →
    t.fault = none →
    t.pressEvent = true ∧ ∃ u, exec .rdKey t = .next u ∧ u.returned = t.returned ++ [1#16]

/-- R245: when both services are enabled, either may run first, and each leaves the other enabled. The two orders end in the
same state when the key bit of the snapshot is the level last seen and the new tick takes no speed sample (DEDUCED, log
entry 15: the sample reads the positions that the port service writes). -/
def Obligations.EitherServiceMayRunFirst : Prop :=
  ∀ s : State, s.fault = none → s.tmrPend = true → s.pcPend = true → s.ie = true →
    (∃ t u, exec .svcTick s = .next t ∧ exec .svcPort t = .next u) ∧
    (∃ t u, exec .svcPort s = .next t ∧ exec .svcTick t = .next u) ∧
    (keyBit s.cfg s.portPins = s.rawLevel → (s.tick + 1) % s.cfg.tickModulus % s.cfg.div100ms ≠ 0 →
      ∀ t, execAll [.svcTick, .svcPort] s = .next t ↔ execAll [.svcPort, .svcTick] s = .next t)

/-- R245: the order matters for a service pair that carries both a tick and a key change. With one tick left of a press, the tick
first records the press edge; the port first restarts the countdown and records none. -/
def Obligations.ServiceOrderMattersAtAKeyChange : Prop :=
  ∀ s t u : State, s.dbState = .bouncing → s.countdown = 1#8 → s.rawLevel = s.cfg.keyActiveLevel →
    s.stableLevel ≠ s.cfg.keyActiveLevel → s.pressEvent = false → s.cfg.admissible = true →
    keyBit s.cfg s.portPins ≠ s.rawLevel →
    execAll [.svcTick, .svcPort] s = .next t → execAll [.svcPort, .svcTick] s = .next u →
    t.pressEvent = true ∧ t.stableLevel = s.cfg.keyActiveLevel ∧ u.pressEvent = false ∧
      u.stableLevel = s.stableLevel

/-- R247, liveness under fairness: in a fair run in which the services stay unmasked, a pending timer is served, and a pending
port is served. -/
def Obligations.FairRunsServePendingSources : Prop :=
  ∀ (st : Nat → State) (op : Nat → Instr) (hostHasMore : Nat → Prop), FairRun st op hostHasMore →
    ∀ n, (∀ m, n ≤ m → (st m).ie = true) →
      ((st n).tmrPend = true → ∃ m, n ≤ m ∧ op m = .svcTick ∧ (st m).tmrPend = true ∧ (st (m + 1)).tmrPend = false) ∧
      ((st n).pcPend = true → ∃ m, n ≤ m ∧ op m = .svcPort ∧ (st m).pcPend = true ∧ (st (m + 1)).pcPend = false)

/-- R7, R258: a trace of operation words is completed exactly when its operations run one after another and none raises a fault,
and it then ends in their final state, with the gates observed at every point (the words not yet taken stand in the state:
DESIGN CHOICE, log entry 2). -/
def Obligations.TracesAreRunsOfTheirOperations : Prop :=
  ∀ (ops : List Instr) (s t : State), s.cfg.admissible = true → s.fault = none → s.trace = [] →
    (∀ i ∈ ops, i.wellFormed s.cfg.portBits = true) →
    ((∃ gs, runTrace (ops.map encode) s = .completed t gs ∧ gs.length = ops.length + 1) ↔
      (execAll ops s = .next t ∧ t.fault = none))
end

