-- ==== Sys2Proof/Laws/Decode.lean ====
section
/-! SUPPORT. The fields of a word, and the decoder read field by field: one lemma says what `decode` answers on the word of any
four fields (30_encoding.md R90, R92, R95, R96). -/

namespace Sys2Proof.Laws

@[simp] theorem opField_mkWord (op sel : BitVec 4) (rsv : BitVec 8) (data : Half) :
    opField (mkWord op sel rsv data) = op := by
  apply BitVec.eq_of_getLsbD_eq
  intro i hi
  simp only [opField, mkWord, BitVec.getLsbD_extractLsb', BitVec.getLsbD_append]
  simp [hi, show ¬ 28 + i < 16 by omega, show ¬ 28 + i - 16 < 8 by omega, show ¬ 28 + i - 16 - 8 < 4 by omega,
    show 28 + i - 16 - 8 - 4 = i by omega]

@[simp] theorem selField_mkWord (op sel : BitVec 4) (rsv : BitVec 8) (data : Half) :
    selField (mkWord op sel rsv data) = sel := by
  apply BitVec.eq_of_getLsbD_eq
  intro i hi
  simp only [selField, mkWord, BitVec.getLsbD_extractLsb', BitVec.getLsbD_append]
  simp [hi, show ¬ 24 + i < 16 by omega, show ¬ 24 + i - 16 < 8 by omega, show 24 + i - 16 - 8 = i by omega]

@[simp] theorem rsvField_mkWord (op sel : BitVec 4) (rsv : BitVec 8) (data : Half) :
    rsvField (mkWord op sel rsv data) = rsv := by
  apply BitVec.eq_of_getLsbD_eq
  intro i hi
  simp only [rsvField, mkWord, BitVec.getLsbD_extractLsb', BitVec.getLsbD_append]
  simp [hi, show ¬ 16 + i < 16 by omega, show 16 + i - 16 = i by omega]

@[simp] theorem dataField_mkWord (op sel : BitVec 4) (rsv : BitVec 8) (data : Half) :
    dataField (mkWord op sel rsv data) = data := by
  apply BitVec.eq_of_getLsbD_eq
  intro i hi
  simp only [dataField, mkWord, BitVec.getLsbD_extractLsb', BitVec.getLsbD_append]
  simp [hi]

/-- A word is the word of its four fields. -/
theorem mkWord_fields (x : Word) : mkWord (opField x) (selField x) (rsvField x) (dataField x) = x := by
  apply BitVec.eq_of_getLsbD_eq
  intro i hi
  simp only [opField, selField, rsvField, dataField, mkWord, BitVec.getLsbD_extractLsb', BitVec.getLsbD_append]
  by_cases h1 : i < 16
  · simp [h1]
  · by_cases h2 : i - 16 < 8
    · simp [h1, h2, show 16 + (i - 16) = i by omega]
    · by_cases h3 : i - 16 - 8 < 4
      · simp [h1, h2, h3, show 24 + (i - 16 - 8) = i by omega]
      · simp [h1, h2, h3, show i - 16 - 8 - 4 < 4 by omega, show 28 + (i - 16 - 8 - 4) = i by omega]

/-- Two words are equal exactly when their fields are. -/
theorem mkWord_inj {o o' s s' : BitVec 4} {r r' : BitVec 8} {d d' : Half} :
    mkWord o s r d = mkWord o' s' r' d' ↔ o = o' ∧ s = s' ∧ r = r' ∧ d = d' := by
  constructor
  · intro h
    exact ⟨by simpa using congrArg opField h, by simpa using congrArg selField h,
      by simpa using congrArg rsvField h, by simpa using congrArg dataField h⟩
  · rintro ⟨rfl, rfl, rfl, rfl⟩
    rfl

/-- Masking a word masks its fields. -/
theorem mkWord_and (o o' s s' : BitVec 4) (r r' : BitVec 8) (d d' : Half) :
    mkWord o s r d &&& mkWord o' s' r' d' = mkWord (o &&& o') (s &&& s') (r &&& r') (d &&& d') := by
  have h1 : (o ++ s ++ r) &&& (o' ++ s' ++ r') = (o &&& o') ++ (s &&& s') ++ (r &&& r') := by
    rw [BitVec.and_append, BitVec.and_append]
  exact BitVec.and_append.trans (congrArg (· ++ (d &&& d')) h1)

/-- The pin bits that `EV_PINS` leaves fixed, as a mask of the data field. -/
def highBits (portBits : Nat) : Half := BitVec.ofNat 16 (2 ^ 16 - 2 ^ portBits)

theorem pinsMask_fields (portBits : Nat) (h : portBits ≤ 16) :
    pinsMask portBits = mkWord 0xF#4 0xF#4 0xFF#8 (highBits portBits) := by
  interval_cases portBits <;> decide

/-- The data bits above `PORT_BITS` are 0 exactly when the data fits `PORT_BITS` bits. -/
theorem and_highBits_eq_zero (portBits : Nat) (h : portBits ≤ 16) (d : Half) :
    d &&& highBits portBits = 0#16 ↔ d.toNat < 2 ^ portBits := by
  have hm : ∀ i, i < 16 → (highBits portBits).getLsbD i = decide (portBits ≤ i) := by
    intro i hi
    interval_cases portBits <;> interval_cases i <;> decide
  constructor
  · intro hz
    apply Nat.lt_pow_two_of_testBit
    intro i hi
    by_cases h16 : i < 16
    · have := congrArg (fun v => v.getLsbD i) hz
      simp only [BitVec.getLsbD_and, hm i h16, hi, decide_true, Bool.and_true, BitVec.getLsbD_zero] at this
      simpa [BitVec.getLsbD] using this
    · exact Nat.testBit_lt_two_pow (lt_of_lt_of_le d.isLt (Nat.pow_le_pow_right (by decide) (by omega)))
  · intro hlt
    apply BitVec.eq_of_getLsbD_eq
    intro i hi
    rw [BitVec.getLsbD_and, hm i hi]
    by_cases hp : portBits ≤ i
    · have : d.getLsbD i = false :=
        Nat.testBit_lt_two_pow (lt_of_lt_of_le hlt (Nat.pow_le_pow_right (by decide) hp))
      simp [this]
    · simp [hp]

/-- What the decoder answers on the word of four fields: R91 read by `op`, with the fields R92 fixes to 0. -/
def decodeFields (portBits : Nat) (op sel : BitVec 4) (rsv : BitVec 8) (data : Half) : Except DecodeError Instr :=
  if rsv = 0#8 then
    if op = 0x7#4 ∧ data = 0#16 then .ok (.rdPos sel)
    else if op = 0x8#4 ∧ data = 0#16 then .ok (.rdSpeed sel)
    else if op = 0xA#4 then .ok (.setDuty sel data)
    else if sel = 0#4 then
      if op = 0x2#4 ∧ data.toNat < 2 ^ portBits then .ok (.evPins data)
      else if op = 0xB#4 then .ok (.pwmInit data)
      else if op = 0xC#4 ∧ data.toNat < 2 then .ok (.setIe (data.getLsbD 0))
      else if data = 0#16 then
        if op = 0x1#4 then .ok .evTimer
        else if op = 0x3#4 then .ok .evPwmCycle
        else if op = 0x4#4 then .ok .svcTick
        else if op = 0x5#4 then .ok .svcPort
        else if op = 0x6#4 then .ok .rdTick
        else if op = 0x9#4 then .ok .rdKey
        else if op = 0xD#4 then .ok .rdStatus
        else if op = 0xE#4 then .ok .rdEvents
        else .error .illegalEncoding
      else .error .illegalEncoding
    else .error .illegalEncoding
  else .error .illegalEncoding

theorem op_cases (op : BitVec 4) : op = 0x0#4 ∨ op = 0x1#4 ∨ op = 0x2#4 ∨ op = 0x3#4 ∨ op = 0x4#4 ∨ op = 0x5#4 ∨ op = 0x6#4
    ∨ op = 0x7#4 ∨ op = 0x8#4 ∨ op = 0x9#4 ∨ op = 0xA#4 ∨ op = 0xB#4 ∨ op = 0xC#4 ∨ op = 0xD#4 ∨ op = 0xE#4 ∨ op = 0xF#4 := by
  revert op
  decide

/-- A row whose match and mask are given by fields, on the word of four fields. -/
theorem matchesWord_fields (name : String) (build : Word → Instr) {f m : Word} {fo fs mo ms : BitVec 4} {fr mr : BitVec 8}
    {fd md : Half} (hf : f = mkWord fo fs fr fd) (hm : m = mkWord mo ms mr md) (o s : BitVec 4) (r : BitVec 8) (d : Half) :
    (OpRow.mk name f m build).matchesWord (mkWord o s r d)
      = decide (o &&& mo = fo ∧ s &&& ms = fs ∧ r &&& mr = fr ∧ d &&& md = fd) := by
  subst hf hm
  simp only [OpRow.matchesWord, mkWord_and]
  rw [Bool.eq_iff_iff]
  simp [mkWord_inj]

theorem and_ones4 (v : BitVec 4) : v &&& 0xF#4 = v := by revert v; decide
theorem and_ones8 (v : BitVec 8) : v &&& 0xFF#8 = v := by
  have := BitVec.and_allOnes (x := v); simpa using this
theorem and_ones16 (v : Half) : v &&& 0xFFFF#16 = v := by
  have := BitVec.and_allOnes (x := v); simpa using this

theorem and_allButBit0 (d : Half) : d &&& 0xFFFE#16 = 0#16 ↔ d.toNat < 2 :=
  and_highBits_eq_zero 1 (by decide) d

/-- The decoder, field by field. -/
theorem decode_mkWord (portBits : Nat) (h : portBits ≤ 16) (op sel : BitVec 4) (rsv : BitVec 8) (data : Half) :
    decode portBits (mkWord op sel rsv data) = decodeFields portBits op sel rsv data := by
  have full : (0xFFFFFFFF#32 : Word) = mkWord 0xF#4 0xF#4 0xFF#8 0xFFFF#16 := by decide
  have noSel : (0xF0FFFFFF#32 : Word) = mkWord 0xF#4 0#4 0xFF#8 0xFFFF#16 := by decide
  have duty : (0xF0FF0000#32 : Word) = mkWord 0xF#4 0#4 0xFF#8 0#16 := by decide
  have period : (0xFFFF0000#32 : Word) = mkWord 0xF#4 0xF#4 0xFF#8 0#16 := by decide
  have enable : (0xFFFFFFFE#32 : Word) = mkWord 0xF#4 0xF#4 0xFF#8 0xFFFE#16 := by decide
  have hb := and_highBits_eq_zero portBits h
  unfold decode opTable
  simp only [List.find?_cons, List.find?_nil,
    matchesWord_fields _ _ (show (0x10000000#32 : Word) = mkWord 0x1#4 0#4 0#8 0#16 by decide) full,
    matchesWord_fields _ _ (show (0x20000000#32 : Word) = mkWord 0x2#4 0#4 0#8 0#16 by decide) (pinsMask_fields portBits h),
    matchesWord_fields _ _ (show (0x30000000#32 : Word) = mkWord 0x3#4 0#4 0#8 0#16 by decide) full,
    matchesWord_fields _ _ (show (0x40000000#32 : Word) = mkWord 0x4#4 0#4 0#8 0#16 by decide) full,
    matchesWord_fields _ _ (show (0x50000000#32 : Word) = mkWord 0x5#4 0#4 0#8 0#16 by decide) full,
    matchesWord_fields _ _ (show (0x60000000#32 : Word) = mkWord 0x6#4 0#4 0#8 0#16 by decide) full,
    matchesWord_fields _ _ (show (0x70000000#32 : Word) = mkWord 0x7#4 0#4 0#8 0#16 by decide) noSel,
    matchesWord_fields _ _ (show (0x80000000#32 : Word) = mkWord 0x8#4 0#4 0#8 0#16 by decide) noSel,
    matchesWord_fields _ _ (show (0x90000000#32 : Word) = mkWord 0x9#4 0#4 0#8 0#16 by decide) full,
    matchesWord_fields _ _ (show (0xA0000000#32 : Word) = mkWord 0xA#4 0#4 0#8 0#16 by decide) duty,
    matchesWord_fields _ _ (show (0xB0000000#32 : Word) = mkWord 0xB#4 0#4 0#8 0#16 by decide) period,
    matchesWord_fields _ _ (show (0xC0000000#32 : Word) = mkWord 0xC#4 0#4 0#8 0#16 by decide) enable,
    matchesWord_fields _ _ (show (0xD0000000#32 : Word) = mkWord 0xD#4 0#4 0#8 0#16 by decide) full,
    matchesWord_fields _ _ (show (0xE0000000#32 : Word) = mkWord 0xE#4 0#4 0#8 0#16 by decide) full,
    and_ones4, and_ones8, and_ones16, and_allButBit0, hb, BitVec.and_zero]
  unfold decodeFields
  by_cases hr : rsv = 0#8
  · by_cases hs : sel = 0#4 <;> by_cases hd : data = 0#16 <;>
      rcases op_cases op with ho | ho | ho | ho | ho | ho | ho | ho | ho | ho | ho | ho | ho | ho | ho | ho <;>
      subst ho <;> simp [hr, hs, hd]
    · by_cases hp : data.toNat < 2 ^ portBits <;> simp [hp]
    · by_cases hp : data.toNat ≤ 1 <;> simp [hp]
  · simp [hr]

/-- The encoder's word by `decodeFields`: what it writes into each field. -/
theorem decode_fields (portBits : Nat) (h : portBits ≤ 16) (x : Word) :
    decode portBits x = decodeFields portBits (opField x) (selField x) (rsvField x) (dataField x) := by
  conv_lhs => rw [← mkWord_fields x]
  exact decode_mkWord portBits h _ _ _ _

end Sys2Proof.Laws
end

