-- ==== Sys2Proof/Laws/State.lean ====
section
/-! SUPPORT. The small lemmas of State: reading a two-entry register after a write, and for each update every field it leaves
alone and every field it writes outright. -/

namespace Sys2Proof.Machine

/-! ## Registers with two entries -/

@[simp] theorem Two.get_one {α : Type} (r : Two α) : r.get .one = r.one := rfl
@[simp] theorem Two.get_two {α : Type} (r : Two α) : r.get .two = r.two := rfl
@[simp] theorem Two.set_one {α : Type} (r : Two α) (v : α) : r.set .one v = ⟨v, r.two⟩ := rfl
@[simp] theorem Two.set_two {α : Type} (r : Two α) (v : α) : r.set .two v = ⟨r.one, v⟩ := rfl

@[simp] theorem Two.get_set_same {α : Type} (r : Two α) (w : Ident) (v : α) : (r.set w v).get w = v := by
  cases w <;> rfl

theorem Two.get_set_other {α : Type} (r : Two α) {w w' : Ident} (h : w' ≠ w) (v : α) : (r.set w v).get w' = r.get w' := by
  cases w <;> cases w' <;> first | rfl | exact absurd rfl h

theorem Two.ext_get {α : Type} {r r' : Two α} (h : ∀ w, r.get w = r'.get w) : r = r' := by
  have h1 : r.one = r'.one := h .one
  have h2 : r.two = r'.two := h .two
  cases r
  cases r'
  cases h1
  cases h2
  rfl

/-! ## `deliver` writes `returned` only (R14) -/

@[simp] theorem deliver_cfg (v : Half) (s : State) : (deliver v s).cfg = s.cfg := rfl
@[simp] theorem deliver_tick (v : Half) (s : State) : (deliver v s).tick = s.tick := rfl
@[simp] theorem deliver_ev50ms (v : Half) (s : State) : (deliver v s).ev50ms = s.ev50ms := rfl
@[simp] theorem deliver_ev100ms (v : Half) (s : State) : (deliver v s).ev100ms = s.ev100ms := rfl
@[simp] theorem deliver_ev1s (v : Half) (s : State) : (deliver v s).ev1s = s.ev1s := rfl
@[simp] theorem deliver_tmrPend (v : Half) (s : State) : (deliver v s).tmrPend = s.tmrPend := rfl
@[simp] theorem deliver_tmrOverrun (v : Half) (s : State) : (deliver v s).tmrOverrun = s.tmrOverrun := rfl
@[simp] theorem deliver_tickArmed (v : Half) (s : State) : (deliver v s).tickArmed = s.tickArmed := rfl
@[simp] theorem deliver_dbState (v : Half) (s : State) : (deliver v s).dbState = s.dbState := rfl
@[simp] theorem deliver_rawLevel (v : Half) (s : State) : (deliver v s).rawLevel = s.rawLevel := rfl
@[simp] theorem deliver_stableLevel (v : Half) (s : State) : (deliver v s).stableLevel = s.stableLevel := rfl
@[simp] theorem deliver_countdown (v : Half) (s : State) : (deliver v s).countdown = s.countdown := rfl
@[simp] theorem deliver_pressEvent (v : Half) (s : State) : (deliver v s).pressEvent = s.pressEvent := rfl
@[simp] theorem deliver_portPins (v : Half) (s : State) : (deliver v s).portPins = s.portPins := rfl
@[simp] theorem deliver_pcPend (v : Half) (s : State) : (deliver v s).pcPend = s.pcPend := rfl
@[simp] theorem deliver_prevState (v : Half) (s : State) : (deliver v s).prevState = s.prevState := rfl
@[simp] theorem deliver_position (v : Half) (s : State) : (deliver v s).position = s.position := rfl
@[simp] theorem deliver_dutyHw (v : Half) (s : State) : (deliver v s).dutyHw = s.dutyHw := rfl
@[simp] theorem deliver_pwmPeriod (v : Half) (s : State) : (deliver v s).pwmPeriod = s.pwmPeriod := rfl
@[simp] theorem deliver_pwmInitDone (v : Half) (s : State) : (deliver v s).pwmInitDone = s.pwmInitDone := rfl
@[simp] theorem deliver_pwmRunning (v : Half) (s : State) : (deliver v s).pwmRunning = s.pwmRunning := rfl
@[simp] theorem deliver_prevPosition (v : Half) (s : State) : (deliver v s).prevPosition = s.prevPosition := rfl
@[simp] theorem deliver_speed (v : Half) (s : State) : (deliver v s).speed = s.speed := rfl
@[simp] theorem deliver_ie (v : Half) (s : State) : (deliver v s).ie = s.ie := rfl
@[simp] theorem deliver_fault (v : Half) (s : State) : (deliver v s).fault = s.fault := rfl
@[simp] theorem deliver_returned (v : Half) (s : State) : (deliver v s).returned = s.returned ++ [v] := rfl
@[simp] theorem deliver_trace (v : Half) (s : State) : (deliver v s).trace = s.trace := rfl

/-! ## `promote` writes `press_event`, `stable_level`, `db_state` only (R141) -/

@[simp] theorem promote_cfg (s : State) : (promote s).cfg = s.cfg := rfl
@[simp] theorem promote_tick (s : State) : (promote s).tick = s.tick := rfl
@[simp] theorem promote_ev50ms (s : State) : (promote s).ev50ms = s.ev50ms := rfl
@[simp] theorem promote_ev100ms (s : State) : (promote s).ev100ms = s.ev100ms := rfl
@[simp] theorem promote_ev1s (s : State) : (promote s).ev1s = s.ev1s := rfl
@[simp] theorem promote_tmrPend (s : State) : (promote s).tmrPend = s.tmrPend := rfl
@[simp] theorem promote_tmrOverrun (s : State) : (promote s).tmrOverrun = s.tmrOverrun := rfl
@[simp] theorem promote_tickArmed (s : State) : (promote s).tickArmed = s.tickArmed := rfl
@[simp] theorem promote_dbState (s : State) : (promote s).dbState = if s.rawLevel = s.cfg.keyActiveLevel then .pressed else .idle := rfl
@[simp] theorem promote_rawLevel (s : State) : (promote s).rawLevel = s.rawLevel := rfl
@[simp] theorem promote_stableLevel (s : State) : (promote s).stableLevel = s.rawLevel := rfl
@[simp] theorem promote_countdown (s : State) : (promote s).countdown = s.countdown := rfl
@[simp] theorem promote_pressEvent (s : State) : (promote s).pressEvent = (s.pressEvent || pressEdge s) := rfl
@[simp] theorem promote_portPins (s : State) : (promote s).portPins = s.portPins := rfl
@[simp] theorem promote_pcPend (s : State) : (promote s).pcPend = s.pcPend := rfl
@[simp] theorem promote_prevState (s : State) : (promote s).prevState = s.prevState := rfl
@[simp] theorem promote_position (s : State) : (promote s).position = s.position := rfl
@[simp] theorem promote_dutyHw (s : State) : (promote s).dutyHw = s.dutyHw := rfl
@[simp] theorem promote_pwmPeriod (s : State) : (promote s).pwmPeriod = s.pwmPeriod := rfl
@[simp] theorem promote_pwmInitDone (s : State) : (promote s).pwmInitDone = s.pwmInitDone := rfl
@[simp] theorem promote_pwmRunning (s : State) : (promote s).pwmRunning = s.pwmRunning := rfl
@[simp] theorem promote_prevPosition (s : State) : (promote s).prevPosition = s.prevPosition := rfl
@[simp] theorem promote_speed (s : State) : (promote s).speed = s.speed := rfl
@[simp] theorem promote_ie (s : State) : (promote s).ie = s.ie := rfl
@[simp] theorem promote_fault (s : State) : (promote s).fault = s.fault := rfl
@[simp] theorem promote_returned (s : State) : (promote s).returned = s.returned := rfl
@[simp] theorem promote_trace (s : State) : (promote s).trace = s.trace := rfl

/-! ## `debounceTick` writes `countdown`, `press_event`, `stable_level`, `db_state` only (R141) -/

@[simp] theorem debounceTick_cfg (s : State) : (debounceTick s).cfg = s.cfg := by
  unfold debounceTick; dsimp only; split_ifs <;> rfl
@[simp] theorem debounceTick_tick (s : State) : (debounceTick s).tick = s.tick := by
  unfold debounceTick; dsimp only; split_ifs <;> rfl
@[simp] theorem debounceTick_ev50ms (s : State) : (debounceTick s).ev50ms = s.ev50ms := by
  unfold debounceTick; dsimp only; split_ifs <;> rfl
@[simp] theorem debounceTick_ev100ms (s : State) : (debounceTick s).ev100ms = s.ev100ms := by
  unfold debounceTick; dsimp only; split_ifs <;> rfl
@[simp] theorem debounceTick_ev1s (s : State) : (debounceTick s).ev1s = s.ev1s := by
  unfold debounceTick; dsimp only; split_ifs <;> rfl
@[simp] theorem debounceTick_tmrPend (s : State) : (debounceTick s).tmrPend = s.tmrPend := by
  unfold debounceTick; dsimp only; split_ifs <;> rfl
@[simp] theorem debounceTick_tmrOverrun (s : State) : (debounceTick s).tmrOverrun = s.tmrOverrun := by
  unfold debounceTick; dsimp only; split_ifs <;> rfl
@[simp] theorem debounceTick_tickArmed (s : State) : (debounceTick s).tickArmed = s.tickArmed := by
  unfold debounceTick; dsimp only; split_ifs <;> rfl
@[simp] theorem debounceTick_rawLevel (s : State) : (debounceTick s).rawLevel = s.rawLevel := by
  unfold debounceTick; dsimp only; split_ifs <;> rfl
@[simp] theorem debounceTick_portPins (s : State) : (debounceTick s).portPins = s.portPins := by
  unfold debounceTick; dsimp only; split_ifs <;> rfl
@[simp] theorem debounceTick_pcPend (s : State) : (debounceTick s).pcPend = s.pcPend := by
  unfold debounceTick; dsimp only; split_ifs <;> rfl
@[simp] theorem debounceTick_prevState (s : State) : (debounceTick s).prevState = s.prevState := by
  unfold debounceTick; dsimp only; split_ifs <;> rfl
@[simp] theorem debounceTick_position (s : State) : (debounceTick s).position = s.position := by
  unfold debounceTick; dsimp only; split_ifs <;> rfl
@[simp] theorem debounceTick_dutyHw (s : State) : (debounceTick s).dutyHw = s.dutyHw := by
  unfold debounceTick; dsimp only; split_ifs <;> rfl
@[simp] theorem debounceTick_pwmPeriod (s : State) : (debounceTick s).pwmPeriod = s.pwmPeriod := by
  unfold debounceTick; dsimp only; split_ifs <;> rfl
@[simp] theorem debounceTick_pwmInitDone (s : State) : (debounceTick s).pwmInitDone = s.pwmInitDone := by
  unfold debounceTick; dsimp only; split_ifs <;> rfl
@[simp] theorem debounceTick_pwmRunning (s : State) : (debounceTick s).pwmRunning = s.pwmRunning := by
  unfold debounceTick; dsimp only; split_ifs <;> rfl
@[simp] theorem debounceTick_prevPosition (s : State) : (debounceTick s).prevPosition = s.prevPosition := by
  unfold debounceTick; dsimp only; split_ifs <;> rfl
@[simp] theorem debounceTick_speed (s : State) : (debounceTick s).speed = s.speed := by
  unfold debounceTick; dsimp only; split_ifs <;> rfl
@[simp] theorem debounceTick_ie (s : State) : (debounceTick s).ie = s.ie := by
  unfold debounceTick; dsimp only; split_ifs <;> rfl
@[simp] theorem debounceTick_fault (s : State) : (debounceTick s).fault = s.fault := by
  unfold debounceTick; dsimp only; split_ifs <;> rfl
@[simp] theorem debounceTick_returned (s : State) : (debounceTick s).returned = s.returned := by
  unfold debounceTick; dsimp only; split_ifs <;> rfl
@[simp] theorem debounceTick_trace (s : State) : (debounceTick s).trace = s.trace := by
  unfold debounceTick; dsimp only; split_ifs <;> rfl

/-! ## `debounceRaw` writes `raw_level`, `countdown`, `db_state` only (R142) -/

@[simp] theorem debounceRaw_cfg (k : Bool) (s : State) : (debounceRaw k s).cfg = s.cfg := by
  unfold debounceRaw; split_ifs <;> rfl
@[simp] theorem debounceRaw_tick (k : Bool) (s : State) : (debounceRaw k s).tick = s.tick := by
  unfold debounceRaw; split_ifs <;> rfl
@[simp] theorem debounceRaw_ev50ms (k : Bool) (s : State) : (debounceRaw k s).ev50ms = s.ev50ms := by
  unfold debounceRaw; split_ifs <;> rfl
@[simp] theorem debounceRaw_ev100ms (k : Bool) (s : State) : (debounceRaw k s).ev100ms = s.ev100ms := by
  unfold debounceRaw; split_ifs <;> rfl
@[simp] theorem debounceRaw_ev1s (k : Bool) (s : State) : (debounceRaw k s).ev1s = s.ev1s := by
  unfold debounceRaw; split_ifs <;> rfl
@[simp] theorem debounceRaw_tmrPend (k : Bool) (s : State) : (debounceRaw k s).tmrPend = s.tmrPend := by
  unfold debounceRaw; split_ifs <;> rfl
@[simp] theorem debounceRaw_tmrOverrun (k : Bool) (s : State) : (debounceRaw k s).tmrOverrun = s.tmrOverrun := by
  unfold debounceRaw; split_ifs <;> rfl
@[simp] theorem debounceRaw_tickArmed (k : Bool) (s : State) : (debounceRaw k s).tickArmed = s.tickArmed := by
  unfold debounceRaw; split_ifs <;> rfl
@[simp] theorem debounceRaw_stableLevel (k : Bool) (s : State) : (debounceRaw k s).stableLevel = s.stableLevel := by
  unfold debounceRaw; split_ifs <;> rfl
@[simp] theorem debounceRaw_pressEvent (k : Bool) (s : State) : (debounceRaw k s).pressEvent = s.pressEvent := by
  unfold debounceRaw; split_ifs <;> rfl
@[simp] theorem debounceRaw_portPins (k : Bool) (s : State) : (debounceRaw k s).portPins = s.portPins := by
  unfold debounceRaw; split_ifs <;> rfl
@[simp] theorem debounceRaw_pcPend (k : Bool) (s : State) : (debounceRaw k s).pcPend = s.pcPend := by
  unfold debounceRaw; split_ifs <;> rfl
@[simp] theorem debounceRaw_prevState (k : Bool) (s : State) : (debounceRaw k s).prevState = s.prevState := by
  unfold debounceRaw; split_ifs <;> rfl
@[simp] theorem debounceRaw_position (k : Bool) (s : State) : (debounceRaw k s).position = s.position := by
  unfold debounceRaw; split_ifs <;> rfl
@[simp] theorem debounceRaw_dutyHw (k : Bool) (s : State) : (debounceRaw k s).dutyHw = s.dutyHw := by
  unfold debounceRaw; split_ifs <;> rfl
@[simp] theorem debounceRaw_pwmPeriod (k : Bool) (s : State) : (debounceRaw k s).pwmPeriod = s.pwmPeriod := by
  unfold debounceRaw; split_ifs <;> rfl
@[simp] theorem debounceRaw_pwmInitDone (k : Bool) (s : State) : (debounceRaw k s).pwmInitDone = s.pwmInitDone := by
  unfold debounceRaw; split_ifs <;> rfl
@[simp] theorem debounceRaw_pwmRunning (k : Bool) (s : State) : (debounceRaw k s).pwmRunning = s.pwmRunning := by
  unfold debounceRaw; split_ifs <;> rfl
@[simp] theorem debounceRaw_prevPosition (k : Bool) (s : State) : (debounceRaw k s).prevPosition = s.prevPosition := by
  unfold debounceRaw; split_ifs <;> rfl
@[simp] theorem debounceRaw_speed (k : Bool) (s : State) : (debounceRaw k s).speed = s.speed := by
  unfold debounceRaw; split_ifs <;> rfl
@[simp] theorem debounceRaw_ie (k : Bool) (s : State) : (debounceRaw k s).ie = s.ie := by
  unfold debounceRaw; split_ifs <;> rfl
@[simp] theorem debounceRaw_fault (k : Bool) (s : State) : (debounceRaw k s).fault = s.fault := by
  unfold debounceRaw; split_ifs <;> rfl
@[simp] theorem debounceRaw_returned (k : Bool) (s : State) : (debounceRaw k s).returned = s.returned := by
  unfold debounceRaw; split_ifs <;> rfl
@[simp] theorem debounceRaw_trace (k : Bool) (s : State) : (debounceRaw k s).trace = s.trace := by
  unfold debounceRaw; split_ifs <;> rfl

/-! ## `quadDecode` writes `position[w]` and `prev_state[w]` only (R162) -/

@[simp] theorem quadDecode_cfg (w : Ident) (snap : Half) (s : State) : (quadDecode w snap s).cfg = s.cfg := rfl
@[simp] theorem quadDecode_tick (w : Ident) (snap : Half) (s : State) : (quadDecode w snap s).tick = s.tick := rfl
@[simp] theorem quadDecode_ev50ms (w : Ident) (snap : Half) (s : State) : (quadDecode w snap s).ev50ms = s.ev50ms := rfl
@[simp] theorem quadDecode_ev100ms (w : Ident) (snap : Half) (s : State) : (quadDecode w snap s).ev100ms = s.ev100ms := rfl
@[simp] theorem quadDecode_ev1s (w : Ident) (snap : Half) (s : State) : (quadDecode w snap s).ev1s = s.ev1s := rfl
@[simp] theorem quadDecode_tmrPend (w : Ident) (snap : Half) (s : State) : (quadDecode w snap s).tmrPend = s.tmrPend := rfl
@[simp] theorem quadDecode_tmrOverrun (w : Ident) (snap : Half) (s : State) : (quadDecode w snap s).tmrOverrun = s.tmrOverrun := rfl
@[simp] theorem quadDecode_tickArmed (w : Ident) (snap : Half) (s : State) : (quadDecode w snap s).tickArmed = s.tickArmed := rfl
@[simp] theorem quadDecode_dbState (w : Ident) (snap : Half) (s : State) : (quadDecode w snap s).dbState = s.dbState := rfl
@[simp] theorem quadDecode_rawLevel (w : Ident) (snap : Half) (s : State) : (quadDecode w snap s).rawLevel = s.rawLevel := rfl
@[simp] theorem quadDecode_stableLevel (w : Ident) (snap : Half) (s : State) : (quadDecode w snap s).stableLevel = s.stableLevel := rfl
@[simp] theorem quadDecode_countdown (w : Ident) (snap : Half) (s : State) : (quadDecode w snap s).countdown = s.countdown := rfl
@[simp] theorem quadDecode_pressEvent (w : Ident) (snap : Half) (s : State) : (quadDecode w snap s).pressEvent = s.pressEvent := rfl
@[simp] theorem quadDecode_portPins (w : Ident) (snap : Half) (s : State) : (quadDecode w snap s).portPins = s.portPins := rfl
@[simp] theorem quadDecode_pcPend (w : Ident) (snap : Half) (s : State) : (quadDecode w snap s).pcPend = s.pcPend := rfl
@[simp] theorem quadDecode_prevState (w : Ident) (snap : Half) (s : State) : (quadDecode w snap s).prevState = s.prevState.set w (wheelState s.cfg w snap) := rfl
@[simp] theorem quadDecode_position (w : Ident) (snap : Half) (s : State) : (quadDecode w snap s).position = s.position.set w (wrap16 (sext16 (s.position.get w) + qtab (s.prevState.get w) (wheelState s.cfg w snap))) := rfl
@[simp] theorem quadDecode_dutyHw (w : Ident) (snap : Half) (s : State) : (quadDecode w snap s).dutyHw = s.dutyHw := rfl
@[simp] theorem quadDecode_pwmPeriod (w : Ident) (snap : Half) (s : State) : (quadDecode w snap s).pwmPeriod = s.pwmPeriod := rfl
@[simp] theorem quadDecode_pwmInitDone (w : Ident) (snap : Half) (s : State) : (quadDecode w snap s).pwmInitDone = s.pwmInitDone := rfl
@[simp] theorem quadDecode_pwmRunning (w : Ident) (snap : Half) (s : State) : (quadDecode w snap s).pwmRunning = s.pwmRunning := rfl
@[simp] theorem quadDecode_prevPosition (w : Ident) (snap : Half) (s : State) : (quadDecode w snap s).prevPosition = s.prevPosition := rfl
@[simp] theorem quadDecode_speed (w : Ident) (snap : Half) (s : State) : (quadDecode w snap s).speed = s.speed := rfl
@[simp] theorem quadDecode_ie (w : Ident) (snap : Half) (s : State) : (quadDecode w snap s).ie = s.ie := rfl
@[simp] theorem quadDecode_fault (w : Ident) (snap : Half) (s : State) : (quadDecode w snap s).fault = s.fault := rfl
@[simp] theorem quadDecode_returned (w : Ident) (snap : Half) (s : State) : (quadDecode w snap s).returned = s.returned := rfl
@[simp] theorem quadDecode_trace (w : Ident) (snap : Half) (s : State) : (quadDecode w snap s).trace = s.trace := rfl

/-! ## `speedSample` writes `speed[w]` and `prev_position[w]` only (R200) -/

@[simp] theorem speedSample_cfg (w : Ident) (s : State) : (speedSample w s).cfg = s.cfg := rfl
@[simp] theorem speedSample_tick (w : Ident) (s : State) : (speedSample w s).tick = s.tick := rfl
@[simp] theorem speedSample_ev50ms (w : Ident) (s : State) : (speedSample w s).ev50ms = s.ev50ms := rfl
@[simp] theorem speedSample_ev100ms (w : Ident) (s : State) : (speedSample w s).ev100ms = s.ev100ms := rfl
@[simp] theorem speedSample_ev1s (w : Ident) (s : State) : (speedSample w s).ev1s = s.ev1s := rfl
@[simp] theorem speedSample_tmrPend (w : Ident) (s : State) : (speedSample w s).tmrPend = s.tmrPend := rfl
@[simp] theorem speedSample_tmrOverrun (w : Ident) (s : State) : (speedSample w s).tmrOverrun = s.tmrOverrun := rfl
@[simp] theorem speedSample_tickArmed (w : Ident) (s : State) : (speedSample w s).tickArmed = s.tickArmed := rfl
@[simp] theorem speedSample_dbState (w : Ident) (s : State) : (speedSample w s).dbState = s.dbState := rfl
@[simp] theorem speedSample_rawLevel (w : Ident) (s : State) : (speedSample w s).rawLevel = s.rawLevel := rfl
@[simp] theorem speedSample_stableLevel (w : Ident) (s : State) : (speedSample w s).stableLevel = s.stableLevel := rfl
@[simp] theorem speedSample_countdown (w : Ident) (s : State) : (speedSample w s).countdown = s.countdown := rfl
@[simp] theorem speedSample_pressEvent (w : Ident) (s : State) : (speedSample w s).pressEvent = s.pressEvent := rfl
@[simp] theorem speedSample_portPins (w : Ident) (s : State) : (speedSample w s).portPins = s.portPins := rfl
@[simp] theorem speedSample_pcPend (w : Ident) (s : State) : (speedSample w s).pcPend = s.pcPend := rfl
@[simp] theorem speedSample_prevState (w : Ident) (s : State) : (speedSample w s).prevState = s.prevState := rfl
@[simp] theorem speedSample_position (w : Ident) (s : State) : (speedSample w s).position = s.position := rfl
@[simp] theorem speedSample_dutyHw (w : Ident) (s : State) : (speedSample w s).dutyHw = s.dutyHw := rfl
@[simp] theorem speedSample_pwmPeriod (w : Ident) (s : State) : (speedSample w s).pwmPeriod = s.pwmPeriod := rfl
@[simp] theorem speedSample_pwmInitDone (w : Ident) (s : State) : (speedSample w s).pwmInitDone = s.pwmInitDone := rfl
@[simp] theorem speedSample_pwmRunning (w : Ident) (s : State) : (speedSample w s).pwmRunning = s.pwmRunning := rfl
@[simp] theorem speedSample_prevPosition (w : Ident) (s : State) : (speedSample w s).prevPosition = s.prevPosition.set w (s.position.get w) := rfl
@[simp] theorem speedSample_speed (w : Ident) (s : State) : (speedSample w s).speed = s.speed.set w (speedOf s.cfg (speedDelta w s)) := rfl
@[simp] theorem speedSample_ie (w : Ident) (s : State) : (speedSample w s).ie = s.ie := rfl
@[simp] theorem speedSample_fault (w : Ident) (s : State) : (speedSample w s).fault = s.fault := rfl
@[simp] theorem speedSample_returned (w : Ident) (s : State) : (speedSample w s).returned = s.returned := rfl
@[simp] theorem speedSample_trace (w : Ident) (s : State) : (speedSample w s).trace = s.trace := rfl

/-! ## `advanceTick` writes `tick` only (R121) -/

@[simp] theorem advanceTick_cfg (s : State) : (advanceTick s).cfg = s.cfg := rfl
@[simp] theorem advanceTick_tick (s : State) : (advanceTick s).tick = (s.tick + 1) % s.cfg.tickModulus := rfl
@[simp] theorem advanceTick_ev50ms (s : State) : (advanceTick s).ev50ms = s.ev50ms := rfl
@[simp] theorem advanceTick_ev100ms (s : State) : (advanceTick s).ev100ms = s.ev100ms := rfl
@[simp] theorem advanceTick_ev1s (s : State) : (advanceTick s).ev1s = s.ev1s := rfl
@[simp] theorem advanceTick_tmrPend (s : State) : (advanceTick s).tmrPend = s.tmrPend := rfl
@[simp] theorem advanceTick_tmrOverrun (s : State) : (advanceTick s).tmrOverrun = s.tmrOverrun := rfl
@[simp] theorem advanceTick_tickArmed (s : State) : (advanceTick s).tickArmed = s.tickArmed := rfl
@[simp] theorem advanceTick_dbState (s : State) : (advanceTick s).dbState = s.dbState := rfl
@[simp] theorem advanceTick_rawLevel (s : State) : (advanceTick s).rawLevel = s.rawLevel := rfl
@[simp] theorem advanceTick_stableLevel (s : State) : (advanceTick s).stableLevel = s.stableLevel := rfl
@[simp] theorem advanceTick_countdown (s : State) : (advanceTick s).countdown = s.countdown := rfl
@[simp] theorem advanceTick_pressEvent (s : State) : (advanceTick s).pressEvent = s.pressEvent := rfl
@[simp] theorem advanceTick_portPins (s : State) : (advanceTick s).portPins = s.portPins := rfl
@[simp] theorem advanceTick_pcPend (s : State) : (advanceTick s).pcPend = s.pcPend := rfl
@[simp] theorem advanceTick_prevState (s : State) : (advanceTick s).prevState = s.prevState := rfl
@[simp] theorem advanceTick_position (s : State) : (advanceTick s).position = s.position := rfl
@[simp] theorem advanceTick_dutyHw (s : State) : (advanceTick s).dutyHw = s.dutyHw := rfl
@[simp] theorem advanceTick_pwmPeriod (s : State) : (advanceTick s).pwmPeriod = s.pwmPeriod := rfl
@[simp] theorem advanceTick_pwmInitDone (s : State) : (advanceTick s).pwmInitDone = s.pwmInitDone := rfl
@[simp] theorem advanceTick_pwmRunning (s : State) : (advanceTick s).pwmRunning = s.pwmRunning := rfl
@[simp] theorem advanceTick_prevPosition (s : State) : (advanceTick s).prevPosition = s.prevPosition := rfl
@[simp] theorem advanceTick_speed (s : State) : (advanceTick s).speed = s.speed := rfl
@[simp] theorem advanceTick_ie (s : State) : (advanceTick s).ie = s.ie := rfl
@[simp] theorem advanceTick_fault (s : State) : (advanceTick s).fault = s.fault := rfl
@[simp] theorem advanceTick_returned (s : State) : (advanceTick s).returned = s.returned := rfl
@[simp] theorem advanceTick_trace (s : State) : (advanceTick s).trace = s.trace := rfl

/-! ## `tickEvents` writes the event flags and the speed unit only (R122) -/

@[simp] theorem tickEvents_cfg (s : State) : (tickEvents s).cfg = s.cfg := by
  unfold tickEvents event1s event100ms event50ms; split_ifs <;> rfl
@[simp] theorem tickEvents_tick (s : State) : (tickEvents s).tick = s.tick := by
  unfold tickEvents event1s event100ms event50ms; split_ifs <;> rfl
@[simp] theorem tickEvents_tmrPend (s : State) : (tickEvents s).tmrPend = s.tmrPend := by
  unfold tickEvents event1s event100ms event50ms; split_ifs <;> rfl
@[simp] theorem tickEvents_tmrOverrun (s : State) : (tickEvents s).tmrOverrun = s.tmrOverrun := by
  unfold tickEvents event1s event100ms event50ms; split_ifs <;> rfl
@[simp] theorem tickEvents_tickArmed (s : State) : (tickEvents s).tickArmed = s.tickArmed := by
  unfold tickEvents event1s event100ms event50ms; split_ifs <;> rfl
@[simp] theorem tickEvents_dbState (s : State) : (tickEvents s).dbState = s.dbState := by
  unfold tickEvents event1s event100ms event50ms; split_ifs <;> rfl
@[simp] theorem tickEvents_rawLevel (s : State) : (tickEvents s).rawLevel = s.rawLevel := by
  unfold tickEvents event1s event100ms event50ms; split_ifs <;> rfl
@[simp] theorem tickEvents_stableLevel (s : State) : (tickEvents s).stableLevel = s.stableLevel := by
  unfold tickEvents event1s event100ms event50ms; split_ifs <;> rfl
@[simp] theorem tickEvents_countdown (s : State) : (tickEvents s).countdown = s.countdown := by
  unfold tickEvents event1s event100ms event50ms; split_ifs <;> rfl
@[simp] theorem tickEvents_pressEvent (s : State) : (tickEvents s).pressEvent = s.pressEvent := by
  unfold tickEvents event1s event100ms event50ms; split_ifs <;> rfl
@[simp] theorem tickEvents_portPins (s : State) : (tickEvents s).portPins = s.portPins := by
  unfold tickEvents event1s event100ms event50ms; split_ifs <;> rfl
@[simp] theorem tickEvents_pcPend (s : State) : (tickEvents s).pcPend = s.pcPend := by
  unfold tickEvents event1s event100ms event50ms; split_ifs <;> rfl
@[simp] theorem tickEvents_prevState (s : State) : (tickEvents s).prevState = s.prevState := by
  unfold tickEvents event1s event100ms event50ms; split_ifs <;> rfl
@[simp] theorem tickEvents_position (s : State) : (tickEvents s).position = s.position := by
  unfold tickEvents event1s event100ms event50ms; split_ifs <;> rfl
@[simp] theorem tickEvents_dutyHw (s : State) : (tickEvents s).dutyHw = s.dutyHw := by
  unfold tickEvents event1s event100ms event50ms; split_ifs <;> rfl
@[simp] theorem tickEvents_pwmPeriod (s : State) : (tickEvents s).pwmPeriod = s.pwmPeriod := by
  unfold tickEvents event1s event100ms event50ms; split_ifs <;> rfl
@[simp] theorem tickEvents_pwmInitDone (s : State) : (tickEvents s).pwmInitDone = s.pwmInitDone := by
  unfold tickEvents event1s event100ms event50ms; split_ifs <;> rfl
@[simp] theorem tickEvents_pwmRunning (s : State) : (tickEvents s).pwmRunning = s.pwmRunning := by
  unfold tickEvents event1s event100ms event50ms; split_ifs <;> rfl
@[simp] theorem tickEvents_ie (s : State) : (tickEvents s).ie = s.ie := by
  unfold tickEvents event1s event100ms event50ms; split_ifs <;> rfl
@[simp] theorem tickEvents_fault (s : State) : (tickEvents s).fault = s.fault := by
  unfold tickEvents event1s event100ms event50ms; split_ifs <;> rfl
@[simp] theorem tickEvents_returned (s : State) : (tickEvents s).returned = s.returned := by
  unfold tickEvents event1s event100ms event50ms; split_ifs <;> rfl
@[simp] theorem tickEvents_trace (s : State) : (tickEvents s).trace = s.trace := by
  unfold tickEvents event1s event100ms event50ms; split_ifs <;> rfl

end Sys2Proof.Machine
end

