-- ==== Sys2Proof/Laws/Ops.lean ====
section
/-! SUPPORT. One lemma for each shared operation: all it can answer. -/

namespace Sys2Proof.Machine

/-! ## The enabling check, the `sel` check, raising a fault -/

theorem whenEnabled_running {s : State} (h : s.fault = none) (b : Bool) (o : Out) :
    whenEnabled b s o = if b = true then o else .refused .notEnabled := by
  simp [whenEnabled, h]

theorem whenEnabled_faulted {s : State} {f : FaultRecord} (h : s.fault = some f) (b : Bool) (o : Out) :
    whenEnabled b s o = .fault f.stop := by
  simp [whenEnabled, h]

/-- An operation steps only in a state without a fault, with its condition, and then as its body says. -/
theorem whenEnabled_eq_next {b : Bool} {s t : State} {o : Out} :
    whenEnabled b s o = .next t ↔ s.fault = none ∧ b = true ∧ o = .next t := by
  unfold whenEnabled
  cases hf : s.fault <;> cases b <;> simp

/-- The enabling check refuses only what is not enabled, given that its body refuses nothing else. -/
theorem whenEnabled_eq_refused {b : Bool} {s : State} {o : Out} {r : Refusal} (h : whenEnabled b s o = .refused r) :
    r = .notEnabled ∨ o = .refused r := by
  unfold whenEnabled at h
  split at h
  · cases h
  · split at h
    · exact .inr h
    · cases h
      exact .inl rfl

theorem raiseFault_eq_next {c : FaultCode} {w : Word} {s t : State} :
    raiseFault c w s = .next t ↔ t = { s with fault := some ⟨c, w⟩ } := by
  unfold raiseFault
  constructor
  · intro h
    cases h
    rfl
  · rintro rfl
    rfl

@[simp] theorem selIdent_one : selIdent 1#4 = some .one := rfl
@[simp] theorem selIdent_two : selIdent 2#4 = some .two := rfl

/-- The identifier that a `sel` names, case by case. -/
theorem selIdent_cases (sel : BitVec 4) :
    (sel = 1#4 ∧ selIdent sel = some .one ∧ legalSel sel = true)
      ∨ (sel = 2#4 ∧ selIdent sel = some .two ∧ legalSel sel = true)
      ∨ (sel ≠ 1#4 ∧ sel ≠ 2#4 ∧ selIdent sel = none ∧ legalSel sel = false) := by
  revert sel
  decide

/-- The `sel` check steps to its body for a legal `sel` and to the fault record for any other. -/
theorem withSel_eq_next {i : Instr} {sel : BitVec 4} {s t : State} {body : Ident → Out} :
    withSel i sel s body = .next t ↔
      (∃ w, selIdent sel = some w ∧ body w = .next t)
        ∨ (selIdent sel = none ∧ t = { s with fault := some ⟨.illegalSelect, encode i⟩ }) := by
  unfold withSel
  cases h : selIdent sel with
  | none => simp [raiseFault_eq_next]
  | some w => simp

/-- The `sel` check refuses nothing of its own. -/
theorem withSel_eq_refused {i : Instr} {sel : BitVec 4} {s : State} {body : Ident → Out} {r : Refusal}
    (h : withSel i sel s body = .refused r) : ∃ w, body w = .refused r := by
  unfold withSel at h
  split at h
  · exact ⟨_, h⟩
  · cases h

/-! ## Taking the next word -/

/-- A word is taken exactly from a run that goes on. -/
theorem fetchWord_eq_ok {s s1 : State} {w : Word} :
    fetchWord s = .ok (w, s1) ↔
      s.cfg.admissible = true ∧ s.fault = none ∧ ∃ rest, s.trace = w :: rest ∧ s1 = { s with trace := rest } := by
  unfold fetchWord
  cases ha : s.cfg.admissible with
  | false => simp
  | true =>
    cases hf : s.fault with
    | some f => simp
    | none =>
      cases ht : s.trace with
      | nil => simp
      | cons x rest =>
        constructor
        · intro h
          cases h
          exact ⟨rfl, rfl, rest, rfl, rfl⟩
        · rintro ⟨-, -, r, hr, rfl⟩
          cases hr
          rfl

theorem fetchWord_inadmissible {s : State} (h : s.cfg.admissible = false) :
    fetchWord s = .error (.refused .inadmissibleConfig) := by
  unfold fetchWord
  rw [h]
  rfl

theorem fetchWord_faulted {s : State} {f : FaultRecord} (ha : s.cfg.admissible = true) (h : s.fault = some f) :
    fetchWord s = .error (.fault f.stop) := by
  unfold fetchWord
  rw [ha, h]
  rfl

theorem fetchWord_ended {s : State} (ha : s.cfg.admissible = true) (hf : s.fault = none) (h : s.trace = []) :
    fetchWord s = .error (.refused .traceEnded) := by
  unfold fetchWord
  rw [ha, hf, h]
  rfl

theorem fetchWord_eq_error_not_next {s t : State} {o : Out} (h : fetchWord s = .error o) : o ≠ .next t := by
  unfold fetchWord at h
  split at h
  · split at h
    · cases h
      simp
    · split at h
      · cases h
        simp
      · cases h
  · cases h
    simp

/-! ## The debounce machine -/

/-- All that `DebounceTick` can do (R141): nothing outside `Bouncing`; count down; or promote at zero. -/
theorem debounceTick_cases (s : State) :
    (s.dbState ≠ .bouncing ∧ debounceTick s = s)
      ∨ (s.dbState = .bouncing ∧ s.countdown ≠ 1#8 ∧ debounceTick s = { s with countdown := s.countdown - 1#8 })
      ∨ (s.dbState = .bouncing ∧ s.countdown = 1#8 ∧
          debounceTick s =
            { s with
              countdown := 0#8
              pressEvent := s.pressEvent || pressEdge s
              stableLevel := s.rawLevel
              dbState := if s.rawLevel = s.cfg.keyActiveLevel then .pressed else .idle }) := by
  by_cases hb : s.dbState = .bouncing
  · by_cases hc : s.countdown = 1#8
    · refine .inr (.inr ⟨hb, hc, ?_⟩)
      simp [debounceTick, hb, hc, promote, pressEdge]
    · refine .inr (.inl ⟨hb, hc, ?_⟩)
      have hz : s.countdown - 1#8 ≠ 0#8 := fun h => hc (BitVec.sub_eq_iff_eq_add.mp h)
      simp [debounceTick, hb, hz]
  · exact .inl ⟨hb, by simp [debounceTick, hb]⟩

/-- All that `DebounceRaw(k)` can do (R142): nothing at the same level, or restart the countdown. -/
theorem debounceRaw_cases (k : Bool) (s : State) :
    (k = s.rawLevel ∧ debounceRaw k s = s)
      ∨ (k ≠ s.rawLevel ∧
          debounceRaw k s =
            { s with rawLevel := k, countdown := BitVec.ofNat 8 s.cfg.debounceTicks, dbState := .bouncing }) := by
  by_cases hk : k = s.rawLevel
  · exact .inl ⟨hk, by simp [debounceRaw, hk]⟩
  · exact .inr ⟨hk, by simp [debounceRaw, hk]⟩

@[simp] theorem debounceRaw_rawLevel (k : Bool) (s : State) : (debounceRaw k s).rawLevel = k := by
  rcases debounceRaw_cases k s with ⟨h, e⟩ | ⟨-, e⟩ <;> rw [e]
  exact h.symm

/-! ## TickEvents -/

@[simp] theorem tickEvents_ev50ms (s : State) :
    (tickEvents s).ev50ms = (s.ev50ms || s.tick % s.cfg.div50ms == 0) := by
  unfold tickEvents event1s event100ms event50ms eventDue
  split_ifs <;> simp_all

@[simp] theorem tickEvents_ev100ms (s : State) :
    (tickEvents s).ev100ms = (s.ev100ms || s.tick % s.cfg.div100ms == 0) := by
  unfold tickEvents event1s event100ms event50ms eventDue
  split_ifs <;> simp_all

@[simp] theorem tickEvents_ev1s (s : State) :
    (tickEvents s).ev1s = (s.ev1s || s.tick % s.cfg.div1s == 0) := by
  unfold tickEvents event1s event100ms event50ms eventDue
  split_ifs <;> simp_all

@[simp] theorem tickEvents_prevPosition (s : State) :
    (tickEvents s).prevPosition = if s.tick % s.cfg.div100ms = 0 then s.position else s.prevPosition := by
  unfold tickEvents event1s event100ms event50ms eventDue
  split_ifs <;> simp_all

@[simp] theorem tickEvents_speed (s : State) :
    (tickEvents s).speed =
      if s.tick % s.cfg.div100ms = 0 then
        ⟨speedOf s.cfg (speedDelta .one s), speedOf s.cfg (speedDelta .two s)⟩ else s.speed := by
  unfold tickEvents event1s event100ms event50ms eventDue
  split_ifs <;> simp_all [speedDelta]

/-! ## The two services, field by field -/

section tickServiceFields
variable (s : State)

@[simp] theorem tickService_cfg : (tickService s).cfg = s.cfg := by simp [tickService]
@[simp] theorem tickService_tick : (tickService s).tick = (s.tick + 1) % s.cfg.tickModulus := by simp [tickService]
@[simp] theorem tickService_ev50ms :
    (tickService s).ev50ms = (s.ev50ms || (s.tick + 1) % s.cfg.tickModulus % s.cfg.div50ms == 0) := by simp [tickService]
@[simp] theorem tickService_ev100ms :
    (tickService s).ev100ms = (s.ev100ms || (s.tick + 1) % s.cfg.tickModulus % s.cfg.div100ms == 0) := by
  simp [tickService]
@[simp] theorem tickService_ev1s :
    (tickService s).ev1s = (s.ev1s || (s.tick + 1) % s.cfg.tickModulus % s.cfg.div1s == 0) := by simp [tickService]
@[simp] theorem tickService_tmrPend : (tickService s).tmrPend = false := rfl
@[simp] theorem tickService_tmrOverrun : (tickService s).tmrOverrun = s.tmrOverrun := by simp [tickService]
@[simp] theorem tickService_tickArmed : (tickService s).tickArmed = s.tickArmed := by simp [tickService]
@[simp] theorem tickService_rawLevel : (tickService s).rawLevel = s.rawLevel := by simp [tickService]
@[simp] theorem tickService_portPins : (tickService s).portPins = s.portPins := by simp [tickService]
@[simp] theorem tickService_pcPend : (tickService s).pcPend = s.pcPend := by simp [tickService]
@[simp] theorem tickService_prevState : (tickService s).prevState = s.prevState := by simp [tickService]
@[simp] theorem tickService_position : (tickService s).position = s.position := by simp [tickService]
@[simp] theorem tickService_dutyHw : (tickService s).dutyHw = s.dutyHw := by simp [tickService]
@[simp] theorem tickService_pwmPeriod : (tickService s).pwmPeriod = s.pwmPeriod := by simp [tickService]
@[simp] theorem tickService_pwmInitDone : (tickService s).pwmInitDone = s.pwmInitDone := by simp [tickService]
@[simp] theorem tickService_pwmRunning : (tickService s).pwmRunning = s.pwmRunning := by simp [tickService]
@[simp] theorem tickService_ie : (tickService s).ie = s.ie := by simp [tickService]
@[simp] theorem tickService_fault : (tickService s).fault = s.fault := by simp [tickService]
@[simp] theorem tickService_returned : (tickService s).returned = s.returned := by simp [tickService]
@[simp] theorem tickService_trace : (tickService s).trace = s.trace := by simp [tickService]

@[simp] theorem tickService_prevPosition :
    (tickService s).prevPosition =
      if (s.tick + 1) % s.cfg.tickModulus % s.cfg.div100ms = 0 then s.position else s.prevPosition := by
  simp [tickService]

@[simp] theorem tickService_speed :
    (tickService s).speed =
      if (s.tick + 1) % s.cfg.tickModulus % s.cfg.div100ms = 0 then
        ⟨speedOf s.cfg (speedDelta .one s), speedOf s.cfg (speedDelta .two s)⟩ else s.speed := by
  simp [tickService, speedDelta]

/-- The debounce half of the tick service is `DebounceTick` on the state before it. -/
theorem tickService_debounce :
    (tickService s).dbState = (debounceTick s).dbState ∧ (tickService s).stableLevel = (debounceTick s).stableLevel
      ∧ (tickService s).countdown = (debounceTick s).countdown
      ∧ (tickService s).pressEvent = (debounceTick s).pressEvent := by
  have hcomm : debounceTick (advanceTick s) = advanceTick (debounceTick s) := by
    unfold debounceTick advanceTick promote pressEdge
    dsimp only
    split_ifs <;> rfl
  simp [tickService, hcomm]

end tickServiceFields

section portServiceFields
variable (snap : Half) (s : State)

@[simp] theorem portService_cfg : (portService snap s).cfg = s.cfg := by simp [portService]
@[simp] theorem portService_tick : (portService snap s).tick = s.tick := by simp [portService]
@[simp] theorem portService_ev50ms : (portService snap s).ev50ms = s.ev50ms := by simp [portService]
@[simp] theorem portService_ev100ms : (portService snap s).ev100ms = s.ev100ms := by simp [portService]
@[simp] theorem portService_ev1s : (portService snap s).ev1s = s.ev1s := by simp [portService]
@[simp] theorem portService_tmrPend : (portService snap s).tmrPend = s.tmrPend := by simp [portService]
@[simp] theorem portService_tmrOverrun : (portService snap s).tmrOverrun = s.tmrOverrun := by simp [portService]
@[simp] theorem portService_tickArmed : (portService snap s).tickArmed = s.tickArmed := by simp [portService]
@[simp] theorem portService_rawLevel : (portService snap s).rawLevel = keyBit s.cfg snap := by simp [portService]
@[simp] theorem portService_stableLevel : (portService snap s).stableLevel = s.stableLevel := by simp [portService]
@[simp] theorem portService_pressEvent : (portService snap s).pressEvent = s.pressEvent := by simp [portService]
@[simp] theorem portService_portPins : (portService snap s).portPins = s.portPins := by simp [portService]
@[simp] theorem portService_pcPend : (portService snap s).pcPend = false := rfl
@[simp] theorem portService_dutyHw : (portService snap s).dutyHw = s.dutyHw := by simp [portService]
@[simp] theorem portService_pwmPeriod : (portService snap s).pwmPeriod = s.pwmPeriod := by simp [portService]
@[simp] theorem portService_pwmInitDone : (portService snap s).pwmInitDone = s.pwmInitDone := by simp [portService]
@[simp] theorem portService_pwmRunning : (portService snap s).pwmRunning = s.pwmRunning := by simp [portService]
@[simp] theorem portService_prevPosition : (portService snap s).prevPosition = s.prevPosition := by simp [portService]
@[simp] theorem portService_speed : (portService snap s).speed = s.speed := by simp [portService]
@[simp] theorem portService_ie : (portService snap s).ie = s.ie := by simp [portService]
@[simp] theorem portService_fault : (portService snap s).fault = s.fault := by simp [portService]
@[simp] theorem portService_returned : (portService snap s).returned = s.returned := by simp [portService]
@[simp] theorem portService_trace : (portService snap s).trace = s.trace := by simp [portService]

/-- Each wheel is decoded from the one snapshot (R161, R162). -/
theorem portService_prevState_get (w : Ident) :
    (portService snap s).prevState.get w = wheelState s.cfg w snap := by
  cases w <;> simp [portService]

theorem portService_position_get (w : Ident) :
    (portService snap s).position.get w =
      wrap16 (sext16 (s.position.get w) + qtab (s.prevState.get w) (wheelState s.cfg w snap)) := by
  cases w <;> simp [portService]

/-- The debounce half of the port service is `DebounceRaw` on the state before it. -/
theorem portService_debounce :
    (portService snap s).dbState = (debounceRaw (keyBit s.cfg snap) s).dbState
      ∧ (portService snap s).countdown = (debounceRaw (keyBit s.cfg snap) s).countdown := by
  by_cases h : keyBit s.cfg snap = s.rawLevel <;> simp [portService, debounceRaw, h]

end portServiceFields

/-! ## Numbers -/

/-- Adding in the integers and wrapping is adding 16-bit patterns (R163). -/
theorem wrap16_sext16_add (p : Half) (d : Int) : wrap16 (sext16 p + d) = p + BitVec.ofInt 16 d := by
  simp [wrap16, sext16, BitVec.ofInt_add, BitVec.ofInt_toInt]

/-- The difference of two positions is the 16-bit difference read as signed (R201). -/
theorem speedDelta_eq (w : Ident) (s : State) :
    speedDelta w s = (s.position.get w - s.prevPosition.get w).toInt := by
  have h : ∀ a b : Half, BitVec.ofInt 16 (a.toInt - b.toInt) = a - b := by
    intro a b
    apply BitVec.eq_of_toInt_eq
    rw [BitVec.toInt_ofInt, BitVec.toInt_sub]
  simp [speedDelta, wrap16, sext16, h]

theorem clamp_bounds {v lo hi : Int} (h : lo ≤ hi) : lo ≤ clamp v lo hi ∧ clamp v lo hi ≤ hi := by
  unfold clamp
  omega

/-- A saturated value survives its 16-bit pattern. -/
theorem toInt_wrap16_sat16 (v : Int) : (wrap16 (sat16 v)).toInt = sat16 v := by
  have h := clamp_bounds (v := v) (lo := -32768) (hi := 32767) (by decide)
  unfold wrap16
  rw [BitVec.toInt_ofInt]
  unfold sat16 at *
  exact Int.bmod_eq_of_le (by omega) (by omega)

end Sys2Proof.Machine
end

