-- ==== Sys2Proof/Laws/Exec.lean ====
section
/-! SUPPORT. One inversion lemma for each operation: exactly when it answers a next state, and which. Then the same for a step
and for a sequence of operations. -/

namespace Sys2Proof.Machine

theorem next_inj {a b : State} : (Host.Outcome.next a : Out) = .next b ↔ b = a := by
  constructor
  · intro h
    cases h
    rfl
  · rintro rfl
    rfl

section operations
variable {s t : State}

theorem exec_evTimer_next : exec .evTimer s = .next t ↔
    s.fault = none ∧ t = { s with tmrOverrun := s.tmrOverrun || expiryLost s, tmrPend := true } := by
  simp only [exec, execEvTimer, whenEnabled_eq_next, next_inj, true_and]

theorem exec_evPins_next {v : Half} : exec (.evPins v) s = .next t ↔
    s.fault = none ∧ t = { s with pcPend := s.pcPend || monitoredChange v s, portPins := v } := by
  simp only [exec, execEvPins, whenEnabled_eq_next, next_inj, true_and]

theorem exec_evPwmCycle_next : exec .evPwmCycle s = .next t ↔
    s.fault = none ∧ s.pwmInitDone = true ∧ t = { s with pwmRunning := true } := by
  simp only [exec, execEvPwmCycle, whenEnabled_eq_next, next_inj, carrierTimerOn]

theorem exec_svcTick_next : exec .svcTick s = .next t ↔
    s.fault = none ∧ s.tmrPend = true ∧ s.ie = true ∧ t = tickService s := by
  simp only [exec, execSvcTick, whenEnabled_eq_next, next_inj, tickServiceDue, Bool.and_eq_true, and_assoc]

theorem exec_svcPort_next : exec .svcPort s = .next t ↔
    s.fault = none ∧ s.pcPend = true ∧ s.ie = true ∧ t = portService s.portPins s := by
  simp only [exec, execSvcPort, whenEnabled_eq_next, next_inj, portServiceDue, Bool.and_eq_true, and_assoc]

theorem exec_rdTick_next : exec .rdTick s = .next t ↔
    s.fault = none ∧ t = deliver (BitVec.ofNat 16 s.tick) s := by
  simp only [exec, execRdTick, whenEnabled_eq_next, next_inj, true_and]

theorem exec_rdPos_next {w : BitVec 4} : exec (.rdPos w) s = .next t ↔
    s.fault = none ∧ ((∃ wheel, selIdent w = some wheel ∧ t = deliver (s.position.get wheel) s)
      ∨ (selIdent w = none ∧ t = { s with fault := some ⟨.illegalSelect, encode (.rdPos w)⟩ })) := by
  simp only [exec, execRdPos, whenEnabled_eq_next, withSel_eq_next, next_inj, true_and]

theorem exec_rdSpeed_next {w : BitVec 4} : exec (.rdSpeed w) s = .next t ↔
    s.fault = none ∧ ((∃ wheel, selIdent w = some wheel ∧ t = deliver (s.speed.get wheel) s)
      ∨ (selIdent w = none ∧ t = { s with fault := some ⟨.illegalSelect, encode (.rdSpeed w)⟩ })) := by
  simp only [exec, execRdSpeed, whenEnabled_eq_next, withSel_eq_next, next_inj, true_and]

theorem exec_rdKey_next : exec .rdKey s = .next t ↔
    s.fault = none ∧ t = deliver (zext1 s.pressEvent) { s with pressEvent := false } := by
  simp only [exec, execRdKey, whenEnabled_eq_next, next_inj, true_and]

theorem exec_setDuty_next {c : BitVec 4} {d : Half} : exec (.setDuty c d) s = .next t ↔
    s.fault = none ∧
      ((∃ ch, selIdent c = some ch ∧ t = { s with dutyHw := s.dutyHw.set ch (dutyOperand s.cfg d) })
      ∨ (selIdent c = none ∧ t = { s with fault := some ⟨.illegalSelect, encode (.setDuty c d)⟩ })) := by
  simp only [exec, execSetDuty, whenEnabled_eq_next, withSel_eq_next, next_inj, true_and]

theorem exec_pwmInit_next {p : Half} : exec (.pwmInit p) s = .next t ↔
    s.fault = none ∧
      ((s.pwmInitDone = false ∧ t = { s with pwmPeriod := p, pwmInitDone := true })
      ∨ (s.pwmInitDone = true ∧ t = { s with fault := some ⟨.pwmReinit, encode (.pwmInit p)⟩ })) := by
  cases h : s.pwmInitDone
  · simp only [exec, execPwmInit, whenEnabled_eq_next, next_inj, h, Bool.false_eq_true, if_false, true_and, false_and,
      or_false]
  · simp only [exec, execPwmInit, whenEnabled_eq_next, raiseFault_eq_next, h, if_true, true_and, reduceCtorEq,
      false_and, false_or]

theorem exec_setIe_next {b : Bool} : exec (.setIe b) s = .next t ↔
    s.fault = none ∧ t = { s with ie := b, tickArmed := s.tickArmed || b } := by
  simp only [exec, execSetIe, whenEnabled_eq_next, next_inj, true_and]

theorem exec_rdStatus_next : exec .rdStatus s = .next t ↔
    s.fault = none ∧ t = deliver (statusWord s) s := by
  simp only [exec, execRdStatus, whenEnabled_eq_next, next_inj, true_and]

theorem exec_rdEvents_next : exec .rdEvents s = .next t ↔
    s.fault = none ∧ t = deliver (eventWord s) { s with ev50ms := false, ev100ms := false, ev1s := false } := by
  simp only [exec, execRdEvents, whenEnabled_eq_next, next_inj, true_and]

end operations

/-- An operation steps only from a state without a fault (R240). -/
theorem exec_next_fault {i : Instr} {s t : State} (h : exec i s = .next t) : s.fault = none := by
  cases i
  case evTimer => exact (exec_evTimer_next.mp h).1
  case evPins => exact (exec_evPins_next.mp h).1
  case evPwmCycle => exact (exec_evPwmCycle_next.mp h).1
  case svcTick => exact (exec_svcTick_next.mp h).1
  case svcPort => exact (exec_svcPort_next.mp h).1
  case rdTick => exact (exec_rdTick_next.mp h).1
  case rdPos => exact (exec_rdPos_next.mp h).1
  case rdSpeed => exact (exec_rdSpeed_next.mp h).1
  case rdKey => exact (exec_rdKey_next.mp h).1
  case setDuty => exact (exec_setDuty_next.mp h).1
  case pwmInit => exact (exec_pwmInit_next.mp h).1
  case setIe => exact (exec_setIe_next.mp h).1
  case rdStatus => exact (exec_rdStatus_next.mp h).1
  case rdEvents => exact (exec_rdEvents_next.mp h).1

/-- The one refusal a meaning can answer. -/
theorem exec_eq_refused {i : Instr} {s : State} {r : Refusal} (h : exec i s = .refused r) : r = .notEnabled := by
  cases i
  case pwmInit p =>
    rcases whenEnabled_eq_refused h with h | h
    · exact h
    · split at h <;> cases h
  case rdPos w =>
    rcases whenEnabled_eq_refused h with h | h
    · exact h
    · obtain ⟨_, h⟩ := withSel_eq_refused h
      cases h
  case rdSpeed w =>
    rcases whenEnabled_eq_refused h with h | h
    · exact h
    · obtain ⟨_, h⟩ := withSel_eq_refused h
      cases h
  case setDuty c d =>
    rcases whenEnabled_eq_refused h with h | h
    · exact h
    · obtain ⟨_, h⟩ := withSel_eq_refused h
      cases h
  all_goals
    rcases whenEnabled_eq_refused h with h | h
    · exact h
    · cases h

/-- Where no word can be taken, the step is that stop. -/
theorem step_of_fetch_error {s : State} {o : Out} (h : fetchWord s = .error o) : step s = o := by
  unfold step
  rw [h]

/-- Where a word is taken, the step is its decoding, executed or rejected. -/
theorem step_of_fetch_ok {s s1 : State} {w : Word} (h : fetchWord s = .ok (w, s1)) :
    step s = match decode s1.cfg.portBits w with
      | .ok i => exec i s1
      | .error _ => rejectWord w s1 := by
  unfold step
  simp only [h]
  all_goals (cases decode s1.cfg.portBits w <;> rfl)

/-- All that a step can do: it takes the next word, and executes the operation or records `ILLEGAL_ENCODING`. -/
theorem step_eq_next {s t : State} : step s = .next t ↔
    s.cfg.admissible = true ∧ s.fault = none ∧ ∃ w rest, s.trace = w :: rest ∧
      ((∃ i, decode s.cfg.portBits w = .ok i ∧ exec i { s with trace := rest } = .next t)
        ∨ (decode s.cfg.portBits w = .error .illegalEncoding
            ∧ t = { s with trace := rest, fault := some ⟨.illegalEncoding, w⟩ })) := by
  unfold step
  cases hf : fetchWord s with
  | error o =>
    constructor
    · intro h
      exact absurd h (fetchWord_eq_error_not_next hf)
    · rintro ⟨ha, hn, w, rest, ht, -⟩
      have := fetchWord_eq_ok.mpr ⟨ha, hn, rest, ht, rfl⟩
      rw [hf] at this
      cases this
  | ok p =>
    obtain ⟨w, s1⟩ := p
    obtain ⟨ha, hn, rest, ht, rfl⟩ := fetchWord_eq_ok.mp hf
    simp only [ha, hn, ht, true_and, List.cons.injEq]
    cases hd : decode s.cfg.portBits w with
    | ok i =>
      constructor
      · intro h
        exact ⟨w, rest, ⟨rfl, rfl⟩, .inl ⟨i, hd, h⟩⟩
      · rintro ⟨w', rest', ⟨rfl, rfl⟩, ⟨j, hj, h⟩ | ⟨he, -⟩⟩
        · rw [hd] at hj
          cases hj
          exact h
        · rw [hd] at he
          cases he
    | error e =>
      cases e
      constructor
      · intro h
        exact ⟨w, rest, ⟨rfl, rfl⟩, .inr ⟨hd, raiseFault_eq_next.mp h⟩⟩
      · rintro ⟨w', rest', ⟨rfl, rfl⟩, ⟨j, hj, -⟩ | ⟨-, rfl⟩⟩
        · rw [hd] at hj
          cases hj
        · rfl

/-! ## Sequences of operations -/

theorem execAll_nil {s t : State} : execAll [] s = .next t ↔ t = s := next_inj

theorem execAll_cons {i : Instr} {is : List Instr} {s t : State} :
    execAll (i :: is) s = .next t ↔ ∃ u, exec i s = .next u ∧ execAll is u = .next t := by
  show (match exec i s with
    | .next t => execAll is t
    | .fault f => .fault f
    | .refused r => .refused r) = .next t ↔ _
  cases exec i s with
  | next u => simp
  | fault f => simp
  | refused r => simp

theorem execAll_append {as bs : List Instr} {s t : State} :
    execAll (as ++ bs) s = .next t ↔ ∃ u, execAll as s = .next u ∧ execAll bs u = .next t := by
  induction as generalizing s with
  | nil => simp [execAll_nil]
  | cons a as ih =>
    rw [List.cons_append, execAll_cons]
    constructor
    · rintro ⟨u, hu, h⟩
      obtain ⟨v, hv, h'⟩ := ih.mp h
      exact ⟨v, execAll_cons.mpr ⟨u, hu, hv⟩, h'⟩
    · rintro ⟨v, hv, h'⟩
      obtain ⟨u, hu, h⟩ := execAll_cons.mp hv
      exact ⟨u, hu, ih.mpr ⟨v, h, h'⟩⟩

theorem along_cons {P : State → Prop} {i : Instr} {is : List Instr} {s u : State} (h : exec i s = .next u) :
    Along P (i :: is) s ↔ P s ∧ Along P is u := by
  simp [Along, h]

theorem countSteps_cons {p : Instr → State → State → Bool} {i : Instr} {is : List Instr} {s u : State}
    (h : exec i s = .next u) :
    countSteps p (i :: is) s = (if p i s u then 1 else 0) + countSteps p is u := by
  simp [countSteps, h]

/-- What every operation keeps, a sequence of operations keeps. -/
theorem execAll_keeps {P : State → Prop} (hstep : ∀ i s t, exec i s = .next t → P s → P t) :
    ∀ {is : List Instr} {s t : State}, execAll is s = .next t → P s → P t
  | [], _, _, h, hp => execAll_nil.mp h ▸ hp
  | _ :: _, s, _, h, hp =>
    have ⟨u, hu, h'⟩ := execAll_cons.mp h
    execAll_keeps hstep h' (hstep _ s u hu hp)

/-! ## Traces of words -/

theorem runTrace_admissible {s : State} (h : s.cfg.admissible = true) (ws : List Word) : runTrace ws s = runWords ws s := if_pos h

theorem runWords_nil {s : State} (h : s.fault = none) : runWords [] s = .completed s [gates s] := by
  simp [runWords, h]

theorem runWords_cons {w : Word} {ws : List Word} {s t : State} (h : s.fault = none)
    (hs : step { s with trace := [w] } = .next t) : runWords (w :: ws) s = (runWords ws t).after (gates s) := by
  rw [h] at hs
  simp [runWords, h, hs]

/-- A completed list of words begins with a step, where it is not empty, and the rest is completed. -/
theorem runWords_cons_completed {w : Word} {ws : List Word} {s t : State} {gs : List (Nat × Nat)} :
    runWords (w :: ws) s = .completed t gs ↔
      s.fault = none ∧ ∃ u hs, step { s with trace := [w] } = .next u ∧ runWords ws u = .completed t hs ∧ gs = gates s :: hs := by
  cases hf : s.fault with
  | some f => simp [runWords, hf]
  | none =>
    simp only [runWords, hf]
    cases hx : step { s with fault := none, trace := [w] } with
    | next u =>
      cases hr : runWords ws u <;> simp [RunOutcome.after, hr, eq_comm, and_comm]
    | fault f => simp
    | refused r => simp

/-! ## The premise of exact counting, operation by operation -/

section served
variable (c : Config) (w : Ident) (served now : BitVec 2) (is : List Instr)

@[simp] theorem servedInTurn_nil : servedInTurn c w served now [] = (served == now) := rfl

@[simp] theorem servedInTurn_svcPort : servedInTurn c w served now (.svcPort :: is) = servedInTurn c w now now is := rfl

@[simp] theorem servedInTurn_evPins (v : Half) :
    servedInTurn c w served now (.evPins v :: is) =
      ((wheelState c w v == now || (served == now && oneBitApart now (wheelState c w v)))
        && servedInTurn c w served (wheelState c w v) is) := rfl

theorem servedInTurn_other {i : Instr} (hp : i ≠ .svcPort) (hn : newPins i = none) :
    servedInTurn c w served now (i :: is) = servedInTurn c w served now is := by
  simp [servedInTurn, hp, hn]

end served

end Sys2Proof.Machine
end

