-- ==== Sys2Proof/Laws/PerInstr.lean ====
section
/-! SUPPORT. Statements made of each operation as syntax, one lemma a constructor: the fields of its operation word that the
spec fixes (30_encoding.md R90, R91). -/

namespace Sys2Proof.Laws

/-- The operations whose `sel` field names a wheel or a channel (R90). -/
def takesSel : Instr → Bool
  | .rdPos _ => true
  | .rdSpeed _ => true
  | .setDuty _ _ => true
  | .evTimer => false
  | .evPins _ => false
  | .evPwmCycle => false
  | .svcTick => false
  | .svcPort => false
  | .rdTick => false
  | .rdKey => false
  | .pwmInit _ => false
  | .setIe _ => false
  | .rdStatus => false
  | .rdEvents => false

/-- The word of the operation has `rsv` 0, a legal `op`, and `sel` 0 where the operation has no `sel` operand (R90, R91). -/
def WordFields.Statement (i : Instr) : Prop :=
  rsvField (encode i) = 0#8 ∧ opField (encode i) ≠ 0x0#4 ∧ opField (encode i) ≠ 0xF#4 ∧
    (takesSel i = false → selField (encode i) = 0#4)

theorem WordFields.evTimer : WordFields.Statement .evTimer := by simp [WordFields.Statement, encode]
theorem WordFields.evPins (v : Half) : WordFields.Statement (.evPins v) := by simp [WordFields.Statement, encode]
theorem WordFields.evPwmCycle : WordFields.Statement .evPwmCycle := by simp [WordFields.Statement, encode]
theorem WordFields.svcTick : WordFields.Statement .svcTick := by simp [WordFields.Statement, encode]
theorem WordFields.svcPort : WordFields.Statement .svcPort := by simp [WordFields.Statement, encode]
theorem WordFields.rdTick : WordFields.Statement .rdTick := by simp [WordFields.Statement, encode]
theorem WordFields.rdPos (w : BitVec 4) : WordFields.Statement (.rdPos w) := by
  simp [WordFields.Statement, encode, takesSel]
theorem WordFields.rdSpeed (w : BitVec 4) : WordFields.Statement (.rdSpeed w) := by
  simp [WordFields.Statement, encode, takesSel]
theorem WordFields.rdKey : WordFields.Statement .rdKey := by simp [WordFields.Statement, encode]
theorem WordFields.setDuty (c : BitVec 4) (d : Half) : WordFields.Statement (.setDuty c d) := by
  simp [WordFields.Statement, encode, takesSel]
theorem WordFields.pwmInit (p : Half) : WordFields.Statement (.pwmInit p) := by simp [WordFields.Statement, encode]
theorem WordFields.setIe (b : Bool) : WordFields.Statement (.setIe b) := by simp [WordFields.Statement, encode]
theorem WordFields.rdStatus : WordFields.Statement .rdStatus := by simp [WordFields.Statement, encode]
theorem WordFields.rdEvents : WordFields.Statement .rdEvents := by simp [WordFields.Statement, encode]

end Sys2Proof.Laws
end

