-- ==== Sys2Proof/Tests/Slice0.lean ====
section
/-! SUPPORT. Tests: the refused ill-formed terms, a word of every row of 30_encoding.md R92 written out field by field, one step
of every operation from 95_test_vectors.md, and for each obligation with hypotheses a state and operands that meet them. -/

namespace Sys2Proof.Tests

open Sys2Proof Sys2Proof.Machine

/-- The configuration of 95_test_vectors.md: TICKS_PER_REV 20, WHEEL_CIRC_MM 200. -/
def cfg : Config := Config.withOpen 20 200

/-- "Reset" of 95_test_vectors.md: power-on with the pins at 0x00. -/
def boot : State := State.powerOn cfg 0#16

/-- After `SET_IE 1`. -/
def serving : State := { boot with ie := true, tickArmed := true }

/-- With a timer expiry pending at a given tick. -/
def tickDue (tick : Nat) : State := { serving with tick := tick, tmrPend := true }

/-- With a pin change pending and the pins at given levels. -/
def portDue (pins : Half) : State := { serving with portPins := pins, pcPend := true }

/-- The debounce tuple of 95_test_vectors.md L2.4: `(db_state, raw_level, stable_level, countdown, press_event)`. -/
def debounceOf (s : State) : DbState × Bool × Bool × Nat × Bool :=
  (s.dbState, s.rawLevel, s.stableLevel, s.countdown.toNat, s.pressEvent)

/-- One tick before the promotion of a key press. -/
def nearPress : State := { tickDue 2 with dbState := .bouncing, rawLevel := true, countdown := 1#8 }

/-- The state after one operation, seen through `f`. -/
def seen {α : Type} (i : Instr) (s : State) (f : State → α) : Option α := (nextOf (exec i s)).map f

/-- The values delivered by an operation. -/
def returns (i : Instr) (s : State) : Option (List Half) := seen i s (·.returned)

/-! ## Ill-formed terms are refused -/

/-- 30_encoding.md R98: `EV_PINS v` needs `v <= 2^PORT_BITS - 1`. -/
theorem test_wellFormed_evPins :
    (Instr.evPins 0x00FF#16).wellFormed 8 = true ∧ (Instr.evPins 0x0100#16).wellFormed 8 = false := by decide

/-- R93: identifiers 0 and 3 to 15 are not legal. -/
theorem test_selLegal :
    (Instr.rdPos 0#4).selLegal = false ∧ (Instr.rdSpeed 3#4).selLegal = false ∧ (Instr.setDuty 15#4 0#16).selLegal = false ∧
      (Instr.rdPos 1#4).selLegal = true ∧ (Instr.rdSpeed 2#4).selLegal = true := by decide

/-- 00_scope.md R9: the configuration of R8 is admissible. -/
theorem test_admissible : cfg.admissible = true := by decide

/-- R9, first and second bullets. -/
theorem test_inadmissible_divisors :
    ({ cfg with div50ms := 0 } : Config).divisorsOk = false ∧ ({ cfg with div100ms := 0 } : Config).divisorsOk = false ∧
      ({ cfg with div1s := 0 } : Config).divisorsOk = false ∧ ({ cfg with tickModulus := 0 } : Config).divisorsOk = false ∧
      ({ cfg with div50ms := 7 } : Config).divisorsOk = false ∧ ({ cfg with div100ms := 7 } : Config).divisorsOk = false ∧
      ({ cfg with div1s := 7 } : Config).divisorsOk = false ∧
      ({ cfg with tickModulus := 65600 } : Config).divisorsOk = false := by decide

/-- R9, third bullet. -/
theorem test_inadmissible_debounce :
    ({ cfg with debounceTicks := 0 } : Config).debounceOk = false ∧
      ({ cfg with debounceTicks := 256 } : Config).debounceOk = false := by decide

/-- R9, fourth bullet: a pin twice, a pin outside the port, a port of 17 bits. -/
theorem test_inadmissible_pins :
    ({ cfg with pinKey := 0 } : Config).pinsOk = false ∧ ({ cfg with pinKey := 8 } : Config).pinsOk = false ∧
      ({ cfg with portBits := 17 } : Config).pinsOk = false := by decide

/-- R9, fifth bullet. -/
theorem test_inadmissible_speed :
    ({ cfg with ticksPerRev := 0 } : Config).speedOk = false ∧
      ({ cfg with samplePeriodMs := 0 } : Config).speedOk = false := by decide

/-- R9, sixth and seventh bullets. -/
theorem test_inadmissible_duty :
    ({ cfg with pwmResBits := 0 } : Config).dutyOk = false ∧ ({ cfg with pwmResBits := 11 } : Config).dutyOk = false ∧
      ({ cfg with dutyInBits := 16 } : Config).dutyOk = false ∧ ({ cfg with maxDuty := 1024 } : Config).dutyOk = false := by
  decide

/-- R9, eighth bullet. -/
theorem test_inadmissible_widths :
    ({ cfg with posBits := 15 } : Config).widthsOk = false ∧ ({ cfg with speedBits := 17 } : Config).widthsOk = false := by
  decide

/-! ## Decoding: a word of every row of R92, bit by bit -/

theorem test_decode_ev_timer :
    decode 8 (0b0001#4 ++ 0b0000#4 ++ 0b00000000#8 ++ 0b0000000000000000#16) = .ok (.evTimer) := by rfl

theorem test_decode_ev_pins :
    decode 8 (0b0010#4 ++ 0b0000#4 ++ 0b00000000#8 ++ 0b0000000000010011#16) = .ok (.evPins 0x0013#16) := by rfl

theorem test_decode_ev_pwm_cycle :
    decode 8 (0b0011#4 ++ 0b0000#4 ++ 0b00000000#8 ++ 0b0000000000000000#16) = .ok (.evPwmCycle) := by rfl

theorem test_decode_svc_tick :
    decode 8 (0b0100#4 ++ 0b0000#4 ++ 0b00000000#8 ++ 0b0000000000000000#16) = .ok (.svcTick) := by rfl

theorem test_decode_svc_port :
    decode 8 (0b0101#4 ++ 0b0000#4 ++ 0b00000000#8 ++ 0b0000000000000000#16) = .ok (.svcPort) := by rfl

theorem test_decode_rd_tick :
    decode 8 (0b0110#4 ++ 0b0000#4 ++ 0b00000000#8 ++ 0b0000000000000000#16) = .ok (.rdTick) := by rfl

theorem test_decode_rd_pos :
    decode 8 (0b0111#4 ++ 0b0010#4 ++ 0b00000000#8 ++ 0b0000000000000000#16) = .ok (.rdPos 2#4) := by rfl

theorem test_decode_rd_speed :
    decode 8 (0b1000#4 ++ 0b1111#4 ++ 0b00000000#8 ++ 0b0000000000000000#16) = .ok (.rdSpeed 15#4) := by rfl

theorem test_decode_rd_key :
    decode 8 (0b1001#4 ++ 0b0000#4 ++ 0b00000000#8 ++ 0b0000000000000000#16) = .ok (.rdKey) := by rfl

theorem test_decode_set_duty :
    decode 8 (0b1010#4 ++ 0b0001#4 ++ 0b00000000#8 ++ 0b1111111111111011#16) = .ok (.setDuty 1#4 (BitVec.ofInt 16 (-5))) := by rfl

theorem test_decode_pwm_init :
    decode 8 (0b1011#4 ++ 0b0000#4 ++ 0b00000000#8 ++ 0b0000000100000010#16) = .ok (.pwmInit 258#16) := by rfl

theorem test_decode_set_ie :
    decode 8 (0b1100#4 ++ 0b0000#4 ++ 0b00000000#8 ++ 0b0000000000000001#16) = .ok (.setIe true) := by rfl

theorem test_decode_rd_status :
    decode 8 (0b1101#4 ++ 0b0000#4 ++ 0b00000000#8 ++ 0b0000000000000000#16) = .ok (.rdStatus) := by rfl

theorem test_decode_rd_events :
    decode 8 (0b1110#4 ++ 0b0000#4 ++ 0b00000000#8 ++ 0b0000000000000000#16) = .ok (.rdEvents) := by rfl

/-- 95_test_vectors.md L2.1: the words it calls fault 1. -/
theorem test_decode_illegal :
    [0x00000000, 0xF0000000, 0x10000001, 0x11000000, 0x10010000, 0x20000100, 0x73010000, 0x9000F000, 0xA17F0000, 0xC0000002,
      0xD0000001].all (fun w => (decodeTableWord 32 w).isNone) = true := by decide

/-- R92, last paragraph: with `PORT_BITS` 10 the pin field is bits 9:0. -/
theorem test_decode_wide_port :
    decode 10 0x20000300#32 = .ok (.evPins 0x0300#16) ∧ decode 10 0x20000400#32 = .error .illegalEncoding := by
  exact ⟨rfl, rfl⟩

/-! ## One step of each operation, from 95_test_vectors.md -/

/-- L2.2 rows 1 and 2. -/
theorem test_evTimer_first_and_silent :
    seen .evTimer boot (fun t => (t.tmrPend, t.tmrOverrun)) = some (true, false) ∧
      seen .evTimer { boot with tmrPend := true } (fun t => (t.tmrPend, t.tmrOverrun)) = some (true, false) := by decide

/-- L2.2 row 3. -/
theorem test_evTimer_overrun :
    seen .evTimer (tickDue 0) (fun t => (t.tmrPend, t.tmrOverrun)) = some (true, true) := by decide

/-- L2.3 row 6: bit 5 is not monitored. -/
theorem test_evPins_unmonitored : seen (.evPins 0x20#16) serving (fun t => (t.pcPend, t.portPins)) = some (false, 0x20#16) := by
  decide

/-- L2.1, word 0x200000FF. -/
theorem test_evPins_all : seen (.evPins 0xFF#16) boot (fun t => (t.pcPend, t.portPins)) = some (true, 0xFF#16) := by decide

/-- L2.6, carrier rows 1 and 3. -/
theorem test_evPwmCycle :
    nextOf (exec .evPwmCycle boot) = none ∧
      seen .evPwmCycle { boot with pwmInitDone := true, dutyHw := ⟨128, 0⟩ } gates = some (128, 0) := by decide

/-- L2.2 rows 8 and 11: the events of ticks 20 and 0 (the wrap). -/
theorem test_svcTick_events :
    seen .svcTick (tickDue 19) (fun t => (t.tick, t.ev50ms, t.ev100ms, t.ev1s, t.tmrPend)) = some (20, true, true, false, false) ∧
      seen .svcTick (tickDue 199) (fun t => (t.tick, t.ev50ms, t.ev100ms, t.ev1s)) = some (0, true, true, true) := by decide

/-- L2.4 row 4, the promotion, and L2.5 rows 6 and 10, the speeds of -5 and (saturated) -328 counts. -/
theorem test_svcTick_promotion_and_speed :
    seen .svcTick nearPress debounceOf = some (.pressed, true, true, 0, true) ∧
      seen .svcTick { tickDue 19 with position := ⟨0#16, BitVec.ofInt 16 (-328)⟩, prevPosition := ⟨5#16, 0#16⟩ }
        (fun t => (t.speed.one, t.speed.two)) = some (0xFE0C#16, 0x8000#16) := by decide

/-- L2.3, the row 8 of the last table. -/
theorem test_svcPort_both_wheels_and_key :
    seen .svcPort (portDue 0x1A#16) (fun t => (t.position, t.prevState)) = some (⟨1#16, 1#16⟩, ⟨2#2, 2#2⟩) ∧
      seen .svcPort (portDue 0x1A#16) debounceOf = some (.bouncing, true, false, 2, false) := by decide

/-- L2.3, rows 1 and 2 of the last table: the position wraps both ways. -/
theorem test_svcPort_wraps :
    seen .svcPort { portDue 0x02#16 with position := ⟨0x7FFF#16, 0#16⟩ } (·.position.one) = some 0x8000#16 ∧
      seen .svcPort { portDue 0x01#16 with position := ⟨0x8000#16, 0#16⟩ } (·.position.one) = some 0x7FFF#16 := by decide

/-- Program D, step 15: tick 60. -/
theorem test_rdTick : returns .rdTick { boot with tick := 60 } = some [0x003C#16] := by decide

/-- L2.3 row 9, and L2.1 word 0x73000000. -/
theorem test_rdPos :
    returns (.rdPos 2#4) { boot with position := ⟨7#16, BitVec.ofInt 16 (-3)⟩ } = some [0xFFFD#16] ∧
      seen (.rdPos 3#4) boot (·.fault) = some (some ⟨.illegalSelect, 0x73000000#32⟩) := by decide

/-- Program D, step 12, and program F, step 2. -/
theorem test_rdSpeed :
    returns (.rdSpeed 1#4) { boot with speed := ⟨BitVec.ofInt 16 (-200), 9#16⟩ } = some [0xFF38#16] ∧
      seen (.rdSpeed 3#4) serving (·.fault) = some (some ⟨.illegalSelect, 0x83000000#32⟩) := by decide

/-- L2.4 row 16. -/
theorem test_rdKey :
    seen .rdKey { boot with pressEvent := true } (fun t => (t.returned, t.pressEvent)) = some ([1#16], false) ∧
      returns .rdKey boot = some [0#16] := by decide

/-- L2.6: the duties -5, 7, 512, 1123. -/
theorem test_setDuty_values :
    [-5, 7, 512, 1123].map (fun d => seen (.setDuty 1#4 (BitVec.ofInt 16 d)) boot (·.dutyHw.one)) =
      [some 0, some 1, some 128, some 255] := by decide

/-- L2.1, word 0xA300000A: fault 2, no duty written. -/
theorem test_setDuty_illegal :
    seen (.setDuty 3#4 10#16) boot (fun t => (t.dutyHw.one, t.dutyHw.two, t.fault)) =
      some (0, 0, some ⟨.illegalSelect, 0xA300000A#32⟩) := by decide

/-- L2.6, carrier rows 2 and 5. -/
theorem test_pwmInit :
    seen (.pwmInit 0x00FF#16) boot (fun t => (t.pwmPeriod, t.pwmInitDone, t.pwmRunning)) = some (255#16, true, false) ∧
      seen (.pwmInit 0x0100#16) { boot with pwmInitDone := true, pwmPeriod := 255#16 } (fun t => (t.pwmPeriod, t.fault)) =
        some (255#16, some ⟨.pwmReinit, 0xB0000100#32⟩) := by decide

/-- L2.7 rows 2 and 3. -/
theorem test_setIe :
    seen (.setIe true) boot (fun t => (t.ie, t.tickArmed)) = some (true, true) ∧
      seen (.setIe false) serving (fun t => (t.ie, t.tickArmed)) = some (false, true) := by decide

/-- Program C step 15 (0x070C) and program E step 7 (0x001B). -/
theorem test_rdStatus :
    returns .rdStatus
        { serving with dbState := .pressed, rawLevel := true, stableLevel := true, pressEvent := true } = some [0x070C#16] ∧
      returns .rdStatus { boot with tmrPend := true, pcPend := true, tickArmed := true, tmrOverrun := true } = some [0x001B#16] := by
  decide

/-- L2.2 rows 12 and 13. -/
theorem test_rdEvents :
    seen .rdEvents { boot with ev50ms := true, ev100ms := true, ev1s := true }
        (fun t => (t.returned, t.ev50ms, t.ev100ms, t.ev1s)) = some ([7#16], false, false, false) ∧
      returns .rdEvents boot = some [0#16] := by decide

/-- Program F as words: one operation, then the fault, then no further step. -/
theorem test_run_faults :
    runTrace [0xC0000001#32, 0x83000000#32] boot =
      .faulted ⟨.illegalSelect, 0x83000000#32⟩ { serving with fault := some ⟨.illegalSelect, 0x83000000#32⟩ } := by rfl

/-- L2.1, word 0x40000000: not a run at reset. -/
theorem test_run_not_enabled : runTrace [0x40000000#32] boot = .notARun := by rfl

/-- R9: under an inadmissible configuration not even the empty trace is a run. -/
theorem test_run_inadmissible :
    runTrace [] { boot with cfg := { cfg with div1s := 0 } } = .notARun ∧ runTrace [] boot = .completed boot [(0, 0)] :=
  ⟨rfl, rfl⟩

/-! ## The assembler (R98 to R100) -/

theorem test_assemble_line :
    assemble 8 ["SET_DUTY 1, -5 ; stop".toList, "EV_PINS 0x13".toList] = some [0xA100FFFB#32, 0x20000013#32] := by decide

theorem test_assemble_pseudo : assemble 8 ["TICK".toList, "; nothing".toList] = some [0x10000000#32, 0x40000000#32] := by decide

theorem test_assemble_error : assemble 8 ["EV_PINS 256".toList] = none ∧ assemble 8 ["RD_POS 16".toList] = none := by decide

/-! ## Witnesses: for each obligation with hypotheses, values that meet them -/
/-- Both sources pending. -/
def bothDue : State := { tickDue 0 with pcPend := true }

/-- A state whose run goes on with one word. -/
def running (w : Word) : State := { boot with trace := [w] }

theorem witness_DecodeInvertsEncode :
    (8 ≤ 16 ∧ (Instr.setDuty 15#4 0xFFFF#16).wellFormed 8 = true) ∧
      (16 ≤ 16 ∧ (Instr.evPins 0xFFFF#16).wellFormed 16 = true) := by decide

theorem witness_EncodeInvertsDecode : 8 ≤ 16 ∧ decode 8 0xA100FFFB#32 = .ok (.setDuty 1#4 0xFFFB#16) := ⟨by decide, rfl⟩

theorem witness_IllegalWordsRaiseIllegalEncoding :
    (running 0x73010000#32).cfg.admissible = true ∧ (running 0x73010000#32).fault = none ∧
      (running 0x73010000#32).trace = [0x73010000#32] ∧
      decode (running 0x73010000#32).cfg.portBits 0x73010000#32 = .error .illegalEncoding :=
  ⟨by decide, rfl, rfl, rfl⟩

theorem witness_DecodeFollowsTheTable :
    (8 ≤ 16 ∧ ∃ r ∈ opTable 8, 0x200000FF#32 &&& r.mask = r.fixedBits) ∧
      ∀ r ∈ opTable 8, 0x20000100#32 &&& r.mask ≠ r.fixedBits :=
  ⟨⟨by decide, _, List.mem_cons_of_mem _ List.mem_cons_self, by decide⟩, by decide⟩

theorem witness_NoWordMatchesTwoRows : (8 ≤ 16 ∧ 16 ≤ 16) ∧ (opTable 8).length = 14 := by decide

/-- The ends of the ranges of R98, one beyond them, and an unknown mnemonic. -/
theorem witness_AssembledOperationsAreWellFormed :
    8 ≤ 16 ∧ assembleLine 8 ⟨"PINS", [255]⟩ = some [.evPins 255#16, .svcPort] ∧ assembleLine 8 ⟨"PINS", [256]⟩ = none ∧
      assembleLine 8 ⟨"EV_PINS", [0]⟩ = some [.evPins 0#16] ∧ assembleLine 8 ⟨"EV_PINS", [-1]⟩ = none ∧
      assembleLine 8 ⟨"RD_POS", [15]⟩ = some [.rdPos 15#4] ∧ assembleLine 8 ⟨"RD_SPEED", [16]⟩ = none ∧
      assembleLine 8 ⟨"SET_DUTY", [0, -32768]⟩ = some [.setDuty 0#4 0x8000#16] ∧
      assembleLine 8 ⟨"SET_DUTY", [1, 32768]⟩ = none ∧ assembleLine 8 ⟨"PWM_INIT", [65535]⟩ = some [.pwmInit 0xFFFF#16] ∧
      assembleLine 8 ⟨"SET_IE", [1]⟩ = some [.setIe true] ∧ assembleLine 8 ⟨"SET_IE", [2]⟩ = none ∧
      assembleLine 8 ⟨"TICK", []⟩ = some [.evTimer, .svcTick] ∧ assembleLine 8 ⟨"TICK", [1]⟩ = none ∧
      assembleLine 8 ⟨"NOP", []⟩ = none := by decide

/-- A line in error among the lines of a trace. -/
theorem witness_AssembledOperationsAreWellFormed_lines :
    parseLine "RD_POS 16".toList = some (some ⟨"RD_POS", [16]⟩) ∧ assembleLine 8 ⟨"RD_POS", [16]⟩ = none ∧
      "RD_POS 16".toList ∈ ["TICK".toList, "RD_POS 16".toList] := by decide

theorem witness_StepRunsTheDecodedOperation :
    (running 0x10000000#32).cfg.admissible = true ∧ (running 0x10000000#32).fault = none ∧
      (running 0x10000000#32).trace = [0x10000000#32] ∧
      decode (running 0x10000000#32).cfg.portBits 0x10000000#32 = .ok .evTimer :=
  ⟨by decide, rfl, rfl, rfl⟩

theorem witness_NothingRunsAfterAFault :
    ({ running 0x10000000#32 with fault := some ⟨.illegalSelect, 0x70000000#32⟩ } : State).fault =
        some ⟨.illegalSelect, 0x70000000#32⟩ ∧
      ({ running 0x10000000#32 with fault := some ⟨.illegalSelect, 0x70000000#32⟩ } : State).cfg.admissible = true :=
  ⟨rfl, by decide⟩

/-- Every bullet of R9 holds of the configuration of R8 (at some values of the OPEN parameters), and one fails when DIV_1S is 0. -/
theorem witness_InadmissibleConfigurationsAreRefused :
    ((1 ≤ cfg.div50ms ∧ 1 ≤ cfg.div100ms ∧ 1 ≤ cfg.div1s ∧ 1 ≤ cfg.tickModulus ∧ cfg.div50ms ∣ cfg.tickModulus ∧
        cfg.div100ms ∣ cfg.tickModulus ∧ cfg.div1s ∣ cfg.tickModulus) ∧
      cfg.tickModulus ≤ 65536 ∧ (1 ≤ cfg.debounceTicks ∧ cfg.debounceTicks ≤ 255) ∧
      (cfg.pins.Nodup ∧ (∀ p ∈ cfg.pins, p < cfg.portBits) ∧ cfg.portBits ≤ 16) ∧
      (1 ≤ cfg.ticksPerRev ∧ 1 ≤ cfg.samplePeriodMs) ∧
      (1 ≤ cfg.pwmResBits ∧ cfg.pwmResBits ≤ cfg.dutyInBits ∧ cfg.dutyInBits ≤ 15) ∧
      cfg.maxDuty ≤ 2 ^ cfg.dutyInBits - 1 ∧ (cfg.posBits = 16 ∧ cfg.speedBits = 16)) ∧
      boot.fault = none ∧ ¬ 1 ≤ ({ cfg with div1s := 0 } : Config).div1s := by decide

theorem witness_OperationsStepExactlyWhenEnabled : boot.fault = none ∧ enabled .svcTick boot = false := by decide

theorem witness_ServicesAreEnabledExactlyWhenPendingAndUnmasked :
    bothDue.fault = none ∧
      ∃ t, ({ bothDue with ie := false } : State).ie = false ∧ exec .rdKey { bothDue with ie := false } = .next t ∧
        bothDue.tmrPend = true ∧ bothDue.pcPend = true :=
  ⟨rfl, _, rfl, rfl, rfl, rfl⟩

theorem witness_FaultsDiscardEveryWrite :
    (∃ t, exec (.rdPos 3#4) boot = .next t ∧ t.fault ≠ none) ∧
      (∃ t, exec (.pwmInit 1#16) { boot with pwmInitDone := true } = .next t ∧ t.fault ≠ none) ∧
      ∃ t, exec .rdTick boot = .next t ∧ t.fault = none :=
  ⟨⟨_, rfl, by decide⟩, ⟨_, rfl, by decide⟩, _, rfl, rfl⟩

theorem witness_TimerExpiryPendsAndRecordsALoss : boot.fault = none ∧ (tickDue 0).fault = none := by decide

theorem witness_PinChangePendsThePort :
    boot.fault = none ∧ (0x10#16).getLsbD 4 ≠ boot.portPins.getLsbD 4 ∧ boot.cfg.monMask.getLsbD 4 = true := by decide

theorem witness_CarrierStartsAtAFullCycleAfterInit :
    (boot.fault = none ∧ boot.pwmInitDone = false) ∧
      ({ boot with pwmInitDone := true } : State).fault = none ∧ ({ boot with pwmInitDone := true } : State).pwmInitDone = true := by
  decide

theorem witness_TickServiceEffect :
    (tickDue 19).fault = none ∧ (tickDue 19).tmrPend = true ∧ (tickDue 19).ie = true := by decide

theorem witness_PortServiceEffect :
    (portDue 0x1A#16).fault = none ∧ (portDue 0x1A#16).pcPend = true ∧ (portDue 0x1A#16).ie = true := by decide

theorem witness_ReadTickReturnsTheTick : boot.fault = none ∧ ({ boot with tick := 65535 } : State).tick < 65536 := by decide

theorem witness_ReadPositionReturnsThePosition : boot.fault = none ∧ (0#4 ≠ 1#4 ∧ 0#4 ≠ 2#4) ∧ (3#4 ≠ 1#4 ∧ 3#4 ≠ 2#4) := by
  decide

theorem witness_ReadSpeedReturnsTheLatestSample : boot.fault = none ∧ (0#4 ≠ 1#4 ∧ 0#4 ≠ 2#4) ∧ (15#4 ≠ 1#4 ∧ 15#4 ≠ 2#4) := by
  decide

theorem witness_ReadKeyReportsAndClears :
    boot.fault = none ∧ ({ boot with pressEvent := true } : State).fault = none := by decide

theorem witness_SetDutyClampsThenShifts : boot.fault = none ∧ (0#4 ≠ 1#4 ∧ 0#4 ≠ 2#4) ∧ (3#4 ≠ 1#4 ∧ 3#4 ≠ 2#4) := by decide

theorem witness_PwmInitRunsOnce :
    (boot.fault = none ∧ boot.pwmInitDone = false) ∧
      ({ boot with pwmInitDone := true } : State).fault = none ∧ ({ boot with pwmInitDone := true } : State).pwmInitDone = true := by
  decide

theorem witness_SetInterruptEnable : boot.fault = none ∧ serving.fault = none := by decide

theorem witness_StatusWordLayout : serving.fault = none := by decide

theorem witness_ReadEventsReportsAndClears : ({ boot with ev1s := true } : State).fault = none := by decide

theorem witness_GateShowsTheDutyOnlyWhileTheCarrierRuns :
    boot.pwmRunning = false ∧ ({ boot with pwmRunning := true } : State).pwmRunning = true := by decide

theorem witness_InvariantHoldsAtReset : cfg.admissible = true ∧ (0xFF#16).toNat < 2 ^ cfg.portBits := by decide

theorem witness_EveryStepKeepsTheInvariant : Inv (running 0x10000000#32) ∧ ∃ t, step (running 0x10000000#32) = .next t :=
  ⟨⟨by decide, by decide, by decide, by decide, by decide, by decide, by decide, fun c => by cases c <;> decide, by decide,
    by decide⟩, _, rfl⟩

theorem witness_ConfigurationStaysFixed : ∃ t, step (running 0xC0000001#32) = .next t := ⟨_, rfl⟩

theorem witness_StickyBitsAreNeverCleared :
    let s : State := { running 0xC0000000#32 with tmrOverrun := true, tickArmed := true, pwmInitDone := true, pwmRunning := true }
    ∃ t, step s = .next t ∧ s.tmrOverrun = true ∧ s.tickArmed = true ∧ s.pwmInitDone = true ∧ s.pwmRunning = true :=
  ⟨_, rfl, rfl, rfl, rfl, rfl⟩

theorem witness_HostCannotWriteInterruptState :
    Instr.rdKey.agent = .host ∧ ∃ t, exec .rdKey { bothDue with pressEvent := true } = .next t := ⟨rfl, _, rfl⟩

/-- A promotion, an event and a speed sample in one tick service. -/
def busyTick : State := { nearPress with tick := 199, position := ⟨1#16, 0#16⟩ }

/-- One operation for each line of the access table: the element does change there. -/
theorem witness_AccessTableOfWrites :
    seen .svcTick busyTick (fun t => (t.tick, t.ev50ms, t.tmrPend)) = some (0, true, false) ∧
      seen .svcTick busyTick debounceOf = some (.pressed, true, true, 0, true) ∧
      seen .svcTick busyTick (fun t => (t.prevPosition.one, t.speed.one)) = some (1#16, 0x0064#16) ∧
      seen .svcPort (portDue 0x12#16) (fun t => (t.rawLevel, t.pcPend, t.prevState.one, t.position.one)) =
        some (true, false, 2#2, 1#16) ∧
      seen .evTimer (tickDue 0) (·.tmrOverrun) = some true ∧ seen (.setIe true) boot (fun t => (t.ie, t.tickArmed)) = some (true, true) ∧
      seen (.evPins 1#16) boot (·.portPins) = some 1#16 ∧ seen (.setDuty 1#4 4#16) boot (·.dutyHw.one) = some 1 ∧
      seen (.pwmInit 1#16) boot (fun t => (t.pwmPeriod, t.pwmInitDone)) = some (1#16, true) ∧
      seen .evPwmCycle { boot with pwmInitDone := true } (·.pwmRunning) = some true :=
  ⟨by decide, by decide, by decide, by decide, by decide, by decide, by decide, by decide, by decide, by decide⟩

theorem witness_ReadsReturnExactlyOneValue :
    (∃ t, exec .rdStatus boot = .next t ∧ t.fault = none ∧ isRead .rdStatus = true) ∧
      ∃ t, exec .svcTick (tickDue 19) = .next t ∧ t.fault = none ∧ isRead .svcTick = false :=
  ⟨⟨_, rfl, rfl, rfl⟩, _, rfl, rfl, rfl⟩

theorem witness_RepeatedOperations :
    boot.fault = none ∧ (∃ t, exec (.rdPos 2#4) boot = .next t ∧ t.fault = none) ∧
      (∃ t, exec .rdKey { boot with pressEvent := true } = .next t) ∧
      (∃ t, exec (.setDuty 1#4 512#16) boot = .next t ∧ t.fault = none) ∧
      ∃ t, exec (.pwmInit 255#16) boot = .next t ∧ t.fault = none :=
  ⟨rfl, ⟨_, rfl, rfl⟩, ⟨_, rfl⟩, ⟨_, rfl, rfl⟩, _, rfl, rfl⟩

theorem witness_CountingLaw :
    (cfg.admissible = true ∧ (tickDue 199).tick < (tickDue 199).cfg.tickModulus ∧
      ∃ t, execAll [.svcTick, .evTimer, .svcTick] (tickDue 199) = .next t) ∧
      (∃ t, exec .svcTick (tickDue 199) = .next t ∧ isEventTick 20 .svcTick (tickDue 199) t = true) ∧
      (∃ t, exec .svcTick (tickDue 198) = .next t ∧ isEventTick 20 .svcTick (tickDue 198) t = false) ∧
      (tickDue 0).tick = 0 ∧ ∃ t, execAll [.svcTick, .evTimer, .svcTick] (tickDue 0) = .next t :=
  ⟨⟨by decide, by decide, _, rfl⟩, ⟨_, rfl, by decide⟩, ⟨_, rfl, by decide⟩, rfl, _, rfl⟩

theorem witness_MaskedTicksAreLostAndRecorded :
    let s : State := { serving with ie := false }
    s.ie = false ∧ s.tickArmed = true ∧ Instr.setIe true ∉ [Instr.evTimer, .evTimer] ∧
      (∃ t, execAll [.evTimer, .evTimer] s = .next t) ∧ 2 ≤ [Instr.evTimer, .evTimer].count .evTimer :=
  ⟨rfl, rfl, by decide, ⟨_, rfl⟩, by decide⟩

/-- The two clauses at their boundary: one tick and two ticks after the change, with `DEBOUNCE_TICKS` 2. -/
theorem witness_SettlingLaw :
    cfg.admissible = true ∧ (portDue 0x10#16).rawLevel ≠ true ∧
      ∃ s, exec .svcPort (portDue 0x10#16) = .next s ∧ s.rawLevel = true ∧
        (∃ t, execAll [.evTimer, .svcTick] s = .next t ∧ Along (fun u => u.rawLevel = true) [.evTimer, .svcTick] s ∧
          [Instr.evTimer, .svcTick].count .svcTick < s.cfg.debounceTicks) ∧
        ∃ t, execAll [.evTimer, .svcTick, .evTimer, .svcTick] s = .next t ∧
          Along (fun u => u.rawLevel = true) [.evTimer, .svcTick, .evTimer, .svcTick] s ∧
          s.cfg.debounceTicks ≤ [Instr.evTimer, .svcTick, .evTimer, .svcTick].count .svcTick :=
  ⟨by decide, by decide, _, rfl, rfl, ⟨_, rfl, ⟨rfl, rfl, rfl⟩, by decide⟩, _, rfl, ⟨rfl, rfl, rfl, rfl, rfl⟩, by decide⟩

theorem witness_EdgeLaw :
    (∃ t, exec .svcTick nearPress = .next t ∧ nearPress.pressEvent = false ∧ t.pressEvent = true) ∧
      (∃ t, execAll [.svcTick, .rdKey] nearPress = .next t ∧ nearPress.pressEvent = false ∧
        countSteps isKeyReport [.svcTick, .rdKey] nearPress = 1) ∧
      (∃ t, execAll [.rdKey] { boot with stableLevel := true } = .next t ∧
        ({ boot with stableLevel := true } : State).stableLevel = cfg.keyActiveLevel) ∧
      ∃ t u, exec .rdKey { boot with pressEvent := true } = .next t ∧ execAll [.rdKey] t = .next u ∧
        countSteps isPressEdge [.rdKey] t = 0 :=
  ⟨⟨_, rfl, rfl, rfl⟩, ⟨_, rfl, rfl, by decide⟩, ⟨_, rfl, rfl⟩, _, _, rfl, rfl, by decide⟩

theorem witness_DecodeTableShape :
    0#2 ^^^ 3#2 = 3#2 ∧ oneBitApart 0#2 2#2 = true ∧ oneBitApart 0#2 1#2 = true ∧ oneBitApart 0#2 3#2 = false := by decide

theorem witness_PositionChangesByAtMostOne : ∃ t, exec .svcPort (portDue 0x02#16) = .next t := ⟨_, rfl⟩

/-- A run for wheel 1 with a tick, a read, a key change and a change of wheel 2 between its two steps. -/
def mixedRun : List Instr :=
  [.evPins 0x02#16, .evTimer, .rdPos 1#4, .evPins 0x12#16, .svcPort, .svcTick, .evPins 0x16#16, .evPins 0x17#16, .svcPort]

theorem witness_ExactCounting :
    (∃ t, execAll mixedRun serving = .next t) ∧ serving.prevState.get .one = wheelState cfg .one serving.portPins ∧
      servedInTurn cfg .one (serving.prevState.get .one) (serving.prevState.get .one) mixedRun = true ∧
      wheelPath cfg .one mixedRun = [2#2, 2#2, 2#2, 3#2] := ⟨⟨_, rfl⟩, by decide⟩

/-- Program B, steps 2 to 7: the alternation of the second clause. -/
theorem witness_ExactCounting_alternation :
    (∃ t, execAll ([0x02#16, 0x03#16, 0x01#16].flatMap fun v => [.evPins v, .svcPort]) serving = .next t) ∧
      grayPath (serving.prevState.get .one) ([0x02#16, 0x03#16, 0x01#16].map (wheelState cfg .one)) = true :=
  ⟨⟨_, rfl⟩, by decide⟩

/-- L2.3, row 4 of the last table. -/
theorem witness_MergedPinChanges :
    ∃ t, execAll ([0x02#16].map Instr.evPins ++ [.evPins 0x03#16, .svcPort]) serving = .next t := ⟨_, rfl⟩

/-- The wheel states 0, 1, 2 and 3 at the first service. -/
theorem witness_FirstServiceCountsFromZero :
    (∃ s t, Instr.svcPort ∉ [Instr.setIe true, .evPins 0x09#16] ∧
      execAll [.setIe true, .evPins 0x09#16] (State.powerOn cfg 0x01#16) = .next s ∧ exec .svcPort s = .next t ∧
      wheelState cfg .one s.portPins = 1#2 ∧ wheelState cfg .two s.portPins = 2#2) ∧
      ∃ s t, execAll [.setIe true, .evPins 0x13#16] (State.powerOn cfg 0x03#16) = .next s ∧ exec .svcPort s = .next t ∧
        wheelState cfg .one s.portPins = 3#2 ∧ wheelState cfg .two s.portPins = 0#2 :=
  ⟨⟨_, _, by decide, rfl, rfl, by decide, by decide⟩, _, _, rfl, rfl, by decide, by decide⟩

theorem witness_KeyHeldAtResetIsReportedAsAPress :
    cfg.admissible = true ∧ cfg.keyActiveLevel = true ∧ Instr.svcPort ∉ [Instr.setIe true, .evPins 0x11#16] ∧
      ∃ s t, execAll [.setIe true, .evPins 0x11#16] (State.powerOn cfg 0x10#16) = .next s ∧ keyBit cfg s.portPins = true ∧
        exec .svcPort s = .next t ∧
        ∃ u, execAll [.evTimer, .svcTick, .evTimer, .svcTick] t = .next u ∧
          Along (fun x => x.rawLevel = true) [.evTimer, .svcTick, .evTimer, .svcTick] t ∧
          Instr.rdKey ∉ [Instr.evTimer, .svcTick, .evTimer, .svcTick] ∧
          cfg.debounceTicks ≤ [Instr.evTimer, .svcTick, .evTimer, .svcTick].count .svcTick :=
  ⟨by decide, rfl, by decide, _, _, rfl, by decide, rfl, _, rfl, ⟨rfl, rfl, rfl, rfl, rfl⟩, by decide, by decide⟩

theorem witness_ClampLaw :
    cfg.admissible = true ∧ (0#16 : Half).toInt ≤ 0 ∧ (cfg.maxDuty : Int) ≤ (1023#16 : Half).toInt ∧
      (BitVec.ofInt 16 (-5)).toInt ≤ (512#16 : Half).toInt ∧ boot.cfg = cfg ∧ boot.fault = none := by decide

theorem witness_GatesStayInactiveUntilTheCarrierStarts :
    ∃ t, execAll [.setDuty 1#4 512#16, .pwmInit 255#16, .evPwmCycle] (State.powerOn cfg 0#16) = .next t ∧ gateDuty t .one ≠ 0 :=
  ⟨_, rfl, by decide⟩

theorem witness_OneSamplePerMacroPeriod :
    (∃ t, exec .svcTick (tickDue 20) = .next t ∧ isEventTick 20 .svcTick (tickDue 20) t = false) ∧
      (∃ t, exec .svcTick (tickDue 19) = .next t ∧ isEventTick 20 .svcTick (tickDue 19) t = true) ∧
      cfg.admissible = true ∧ ∃ t, execAll [.setIe true, .evTimer, .svcTick] (State.powerOn cfg 0#16) = .next t :=
  ⟨⟨_, rfl, by decide⟩, ⟨_, rfl, by decide⟩, by decide, _, rfl⟩

/-- A configuration that samples at every tick, so that two samples are near. -/
def everyTick : State := { tickDue 0 with cfg := { cfg with div100ms := 1 }, position := ⟨3#16, 0#16⟩ }

theorem witness_ZeroLaw :
    ∃ s₁ s₂ s₃, exec .svcTick everyTick = .next s₁ ∧ isEventTick 1 .svcTick everyTick s₁ = true ∧
      execAll [.evTimer] s₁ = .next s₂ ∧ countSteps (isEventTick 1) [.evTimer] s₁ = 0 ∧
      exec .svcTick s₂ = .next s₃ ∧ isEventTick 1 .svcTick s₂ s₃ = true ∧
      s₂.position.get .one = everyTick.position.get .one :=
  ⟨_, _, _, rfl, by decide, rfl, by decide, rfl, by decide, rfl⟩

theorem witness_SignLaw :
    let s : State := { tickDue 19 with position := ⟨3#16, BitVec.ofInt 16 (-3)⟩ }
    s.cfg.admissible = true ∧ (∃ t, exec .svcTick s = .next t ∧ isEventTick 20 .svcTick s t = true ∧
      0 < (t.speed.get .one).toInt ∧ (t.speed.get .two).toInt < 0) ∧
      ∃ t, exec .svcTick { s with cfg := Config.withOpen 20 0 } = .next t ∧ (Config.withOpen 20 0).admissible = true ∧
        isEventTick 20 .svcTick s t = true ∧ (Config.withOpen 20 0).wheelCircMm = 0 :=
  ⟨by decide, ⟨_, rfl, by decide, by decide, by decide⟩, _, rfl, by decide, by decide, rfl⟩

theorem witness_CriticalSectionsFreezeTheUnits :
    let s : State := { bothDue with ie := false, pressEvent := true, ev1s := true }
    s.ie = false ∧ Instr.setIe true ∉ [Instr.evTimer, .rdKey, .rdEvents, .evPins 1#16] ∧
      ∃ t, execAll [.evTimer, .rdKey, .rdEvents, .evPins 1#16] s = .next t :=
  ⟨rfl, by decide, _, rfl⟩

theorem witness_PressEdgesWaitForTheNextRead :
    let s : State := { tickDue 0 with pressEvent := true }
    s.pressEvent = true ∧ Instr.rdKey ∉ [Instr.svcTick, .rdStatus] ∧ ∃ t, execAll [.svcTick, .rdStatus] s = .next t ∧ t.fault = none :=
  ⟨rfl, by decide, _, rfl, rfl⟩

theorem witness_EitherServiceMayRunFirst :
    bothDue.fault = none ∧ bothDue.tmrPend = true ∧ bothDue.pcPend = true ∧ bothDue.ie = true ∧
      keyBit bothDue.cfg bothDue.portPins = bothDue.rawLevel ∧
      (bothDue.tick + 1) % bothDue.cfg.tickModulus % bothDue.cfg.div100ms ≠ 0 := by decide

/-- The start of "Service order matters" in L2.4. -/
theorem witness_ServiceOrderMattersAtAKeyChange :
    let s : State := { nearPress with pcPend := true }
    s.dbState = .bouncing ∧ s.countdown = 1#8 ∧ s.rawLevel = s.cfg.keyActiveLevel ∧ s.stableLevel ≠ s.cfg.keyActiveLevel ∧
      s.pressEvent = false ∧ s.cfg.admissible = true ∧ keyBit s.cfg s.portPins ≠ s.rawLevel ∧
      ∃ t u, execAll [.svcTick, .svcPort] s = .next t ∧ execAll [.svcPort, .svcTick] s = .next u :=
  ⟨rfl, rfl, rfl, by decide, rfl, by decide, by decide, _, _, rfl, rfl⟩

/-- The operations of a fair run: both services, then the Host for ever. -/
def fairOp : Nat → Instr
  | 0 => .svcTick
  | 1 => .svcPort
  | _ => .setIe true

/-- Its states. -/
def fairState : Nat → State
  | 0 => bothDue
  | 1 => tickService bothDue
  | _ => portService 0#16 (tickService bothDue)

theorem witness_FairRunsServePendingSources :
    FairRun fairState fairOp (fun _ => True) ∧ (∀ m, 0 ≤ m → (fairState m).ie = true) ∧
      (fairState 0).tmrPend = true ∧ (fairState 0).pcPend = true := by
  refine ⟨⟨by decide, ?_, fun n => ⟨n + 1, by omega, ?_⟩, fun n => ⟨n + 2, by omega, .inr rfl⟩, fun n _ => ⟨n + 2, by omega, rfl⟩⟩, ?_, rfl, rfl⟩
  · intro n
    match n with
    | 0 => rfl
    | 1 => rfl
    | _ + 2 => rfl
  · match n with
    | 0 => exact .inr rfl
    | _ + 1 => exact .inr rfl
  · intro m _
    match m with
    | 0 => rfl
    | 1 => rfl
    | _ + 2 => rfl

/-- Program A, steps 1 and 3: a completed trace; the other side of the equivalence at the same values. -/
theorem witness_TracesAreRunsOfTheirOperations :
    let ops : List Instr := [.setDuty 1#4 512#16, .pwmInit 0x00FF#16]
    boot.cfg.admissible = true ∧ boot.fault = none ∧ boot.trace = [] ∧
      (∀ i ∈ ops, i.wellFormed boot.cfg.portBits = true) ∧ ∃ t, execAll ops boot = .next t ∧ t.fault = none :=
  ⟨by decide, rfl, rfl, by decide, _, rfl, rfl⟩

end Sys2Proof.Tests
end

section
/-! The scope of the model (00_scope.md): which configurations have runs, when an operation steps, what every step keeps, and
how traces of words are runs of operations. First the configuration and the power-on state, then the decoder, then the
operations and steps, then traces; the statements settled stand at the end of each part. -/

/-! ## The admissible configurations and the invariant at power-on (R9, R51) -/

namespace Sys2Proof

/-- The bullets of R9 in the spec's own terms: divisibility, the pins as a list, and each bound as the spec writes it. -/
def Config.EveryBullet (c : Config) : Prop :=
  (1 ≤ c.div50ms ∧ 1 ≤ c.div100ms ∧ 1 ≤ c.div1s ∧ 1 ≤ c.tickModulus ∧ c.div50ms ∣ c.tickModulus ∧
    c.div100ms ∣ c.tickModulus ∧ c.div1s ∣ c.tickModulus) ∧
  c.tickModulus ≤ 65536 ∧
  (1 ≤ c.debounceTicks ∧ c.debounceTicks ≤ 255) ∧
  (c.pins.Nodup ∧ (∀ p ∈ c.pins, p < c.portBits) ∧ c.portBits ≤ 16) ∧
  (1 ≤ c.ticksPerRev ∧ 1 ≤ c.samplePeriodMs) ∧
  (1 ≤ c.pwmResBits ∧ c.pwmResBits ≤ c.dutyInBits ∧ c.dutyInBits ≤ 15) ∧
  c.maxDuty ≤ 2 ^ c.dutyInBits - 1 ∧
  (c.posBits = 16 ∧ c.speedBits = 16)

/-- The check of the first two bullets computes remainders where R9 speaks of divisibility. -/
theorem Config.divisorsOk_iff (c : Config) :
    c.divisorsOk = true ↔
      (1 ≤ c.div50ms ∧ 1 ≤ c.div100ms ∧ 1 ≤ c.div1s ∧ 1 ≤ c.tickModulus ∧ c.div50ms ∣ c.tickModulus ∧
        c.div100ms ∣ c.tickModulus ∧ c.div1s ∣ c.tickModulus) ∧ c.tickModulus ≤ 65536 := by
  simp only [divisorsOk, decide_eq_true_iff, Nat.dvd_iff_mod_eq_zero]
  tauto

theorem Config.admissible_iff_everyBullet (c : Config) : c.admissible = true ↔ c.EveryBullet := by
  simp only [admissible, Bool.and_eq_true, divisorsOk_iff, debounceOk, pinsOk, speedOk, dutyOk, widthsOk,
    decide_eq_true_iff, EveryBullet, and_assoc]

theorem Config.portBits_le_of_admissible {c : Config} (h : c.admissible = true) : c.portBits ≤ 16 := by
  obtain ⟨-, -, -, ⟨-, -, hport⟩, -⟩ := c.admissible_iff_everyBullet.mp h
  exact hport

theorem Config.tickModulus_pos_of_admissible {c : Config} (h : c.admissible = true) : 0 < c.tickModulus := by
  obtain ⟨⟨-, -, -, hmod, -⟩, -⟩ := c.admissible_iff_everyBullet.mp h
  exact hmod

/-- Of the two OPEN parameters only `TICKS_PER_REV` is constrained (R9, fifth bullet). -/
theorem Config.withOpen_admissible {ticksPerRev : Nat} (h : 1 ≤ ticksPerRev) (wheelCircMm : Nat) :
    (Config.withOpen ticksPerRev wheelCircMm).admissible = true := by
  rw [admissible_iff_everyBullet]
  simp [EveryBullet, pins, withOpen, h]

end Sys2Proof

namespace Sys2Proof.Machine

/-- Power-on gives every invariant its base case; the two that need the configuration and the pins are items 1 and R42. -/
theorem inv_powerOn {c : Config} {pins : Half} (hadm : c.admissible = true) (hpins : pins.toNat < 2 ^ c.portBits) :
    Inv (State.powerOn c pins) where
  admissible := hadm
  tick_lt := Config.tickModulus_pos_of_admissible hadm
  bouncing := nofun
  settled := fun _ => ⟨rfl, rfl⟩
  idle := fun hlevel _ hstable => Bool.false_ne_true (hstable.trans hlevel)
  pressed := nofun
  running := nofun
  duty := fun ch => by cases ch <;> exact Nat.zero_le _
  overrun := nofun
  pins := hpins

/-- Settles O32: power-on under any admissible configuration, of which the one of `State.reset` is an example. -/
theorem invariantHoldsAtReset : Obligations.InvariantHoldsAtReset := by
  unfold Obligations.InvariantHoldsAtReset
  exact ⟨fun _ _ hadm hpins => inv_powerOn hadm hpins,
    inv_powerOn (Config.withOpen_admissible (Nat.le_add_left 1 _) _) (Nat.two_pow_pos _)⟩

end Sys2Proof.Machine

/-! ## The word of an operation decodes to it (R90 to R95) -/

namespace Sys2Proof.Laws

theorem decode_encode {portBits : Nat} (h : portBits ≤ 16) {i : Instr} (hwf : i.wellFormed portBits = true) :
    decode portBits (encode i) = .ok i := by
  cases i with
  | evPins v =>
    have hfits : v.toNat < 2 ^ portBits := of_decide_eq_true hwf
    simp [encode, decode_mkWord _ h, decodeFields, hfits]
  | setIe b => cases b <;> simp [encode, decode_mkWord _ h, decodeFields]
  | _ => simp [encode, decode_mkWord _ h, decodeFields]

end Sys2Proof.Laws

namespace Sys2Proof.Machine

/-! ## When an operation steps (R7, R12, R240, R244) -/

/-- The `sel` check steps on either side, where its body steps. -/
theorem withSel_steps {i : Instr} {sel : BitVec 4} {s : State} {body : Ident → Out} (h : ∀ w, ∃ t, body w = .next t) :
    ∃ t, withSel i sel s body = .next t := by
  cases hsel : selIdent sel with
  | none => exact ⟨_, withSel_eq_next.mpr (.inr ⟨hsel, rfl⟩)⟩
  | some w =>
    obtain ⟨t, ht⟩ := h w
    exact ⟨t, withSel_eq_next.mpr (.inl ⟨w, hsel, ht⟩)⟩

/-- Every meaning is the enabling check, with the condition that `enabled` names, around a body that always steps: a fault of
R241 is a step too. -/
theorem exec_eq_whenEnabled (i : Instr) (s : State) :
    ∃ b t, exec i s = whenEnabled b s (.next t) ∧ enabled i s = (s.fault.isNone && b) := by
  cases i
  case rdPos w =>
    obtain ⟨t, ht⟩ := withSel_steps (i := .rdPos w) (sel := w) (s := s) fun wheel =>
      ⟨deliver (s.position.get wheel) s, rfl⟩
    exact ⟨true, t, congrArg (whenEnabled true s) ht, rfl⟩
  case rdSpeed w =>
    obtain ⟨t, ht⟩ := withSel_steps (i := .rdSpeed w) (sel := w) (s := s) fun wheel =>
      ⟨deliver (s.speed.get wheel) s, rfl⟩
    exact ⟨true, t, congrArg (whenEnabled true s) ht, rfl⟩
  case setDuty c d =>
    obtain ⟨t, ht⟩ := withSel_steps (i := .setDuty c d) (sel := c) (s := s) fun ch =>
      ⟨{ s with dutyHw := s.dutyHw.set ch (dutyOperand s.cfg d) }, rfl⟩
    exact ⟨true, t, congrArg (whenEnabled true s) ht, rfl⟩
  case pwmInit p =>
    exact ⟨true, if s.pwmInitDone then faultedWith .pwmReinit (encode (.pwmInit p)) s
      else { s with pwmPeriod := p, pwmInitDone := true },
      congrArg (whenEnabled true s) (apply_ite Host.Outcome.next _ _ _).symm, rfl⟩
  all_goals exact ⟨_, _, rfl, rfl⟩

/-- Settles O12: the enabling check decides between a step and the refusal. -/
theorem operationsStepExactlyWhenEnabled : Obligations.OperationsStepExactlyWhenEnabled := by
  unfold Obligations.OperationsStepExactlyWhenEnabled
  intro i s
  obtain ⟨b, t, hexec, henabled⟩ := exec_eq_whenEnabled i s
  rw [hexec, henabled]
  constructor
  · simp [whenEnabled_eq_next]
  · intro hfault hnot
    have hb : b = false := by simpa [hfault] using hnot
    simp [whenEnabled_running hfault, hb]

/-! ## What every operation keeps, and what it returns (R8, R14) -/

/-- No operation writes the configuration (R8) or the words not yet taken. -/
theorem exec_keeps_cfg_trace {i : Instr} {s t : State} (h : exec i s = .next t) :
    t.cfg = s.cfg ∧ t.trace = s.trace := by
  cases i
  case evTimer => obtain ⟨-, rfl⟩ := exec_evTimer_next.mp h; exact ⟨rfl, rfl⟩
  case evPins => obtain ⟨-, rfl⟩ := exec_evPins_next.mp h; exact ⟨rfl, rfl⟩
  case evPwmCycle => obtain ⟨-, -, rfl⟩ := exec_evPwmCycle_next.mp h; exact ⟨rfl, rfl⟩
  case svcTick =>
    obtain ⟨-, -, -, rfl⟩ := exec_svcTick_next.mp h
    exact ⟨tickService_cfg s, tickService_trace s⟩
  case svcPort =>
    obtain ⟨-, -, -, rfl⟩ := exec_svcPort_next.mp h
    exact ⟨portService_cfg s.portPins s, portService_trace s.portPins s⟩
  case rdTick => obtain ⟨-, rfl⟩ := exec_rdTick_next.mp h; exact ⟨rfl, rfl⟩
  case rdPos => obtain ⟨-, ⟨_, -, rfl⟩ | ⟨-, rfl⟩⟩ := exec_rdPos_next.mp h <;> exact ⟨rfl, rfl⟩
  case rdSpeed => obtain ⟨-, ⟨_, -, rfl⟩ | ⟨-, rfl⟩⟩ := exec_rdSpeed_next.mp h <;> exact ⟨rfl, rfl⟩
  case rdKey => obtain ⟨-, rfl⟩ := exec_rdKey_next.mp h; exact ⟨rfl, rfl⟩
  case setDuty => obtain ⟨-, ⟨_, -, rfl⟩ | ⟨-, rfl⟩⟩ := exec_setDuty_next.mp h <;> exact ⟨rfl, rfl⟩
  case pwmInit => obtain ⟨-, ⟨-, rfl⟩ | ⟨-, rfl⟩⟩ := exec_pwmInit_next.mp h <;> exact ⟨rfl, rfl⟩
  case setIe => obtain ⟨-, rfl⟩ := exec_setIe_next.mp h; exact ⟨rfl, rfl⟩
  case rdStatus => obtain ⟨-, rfl⟩ := exec_rdStatus_next.mp h; exact ⟨rfl, rfl⟩
  case rdEvents => obtain ⟨-, rfl⟩ := exec_rdEvents_next.mp h; exact ⟨rfl, rfl⟩

/-- A Host read that records no fault delivers one value; the fault of an illegal `sel` is the only way to deliver none. -/
theorem exec_read_delivers {i : Instr} {s t : State} (h : exec i s = .next t) (hfault : t.fault = none)
    (hread : isRead i = true) : ∃ v : Half, t.returned = s.returned ++ [v] := by
  cases i
  case rdTick => obtain ⟨-, rfl⟩ := exec_rdTick_next.mp h; exact ⟨_, rfl⟩
  case rdPos =>
    obtain ⟨-, ⟨_, -, rfl⟩ | ⟨-, rfl⟩⟩ := exec_rdPos_next.mp h
    · exact ⟨_, rfl⟩
    · cases hfault
  case rdSpeed =>
    obtain ⟨-, ⟨_, -, rfl⟩ | ⟨-, rfl⟩⟩ := exec_rdSpeed_next.mp h
    · exact ⟨_, rfl⟩
    · cases hfault
  case rdKey => obtain ⟨-, rfl⟩ := exec_rdKey_next.mp h; exact ⟨_, rfl⟩
  case rdStatus => obtain ⟨-, rfl⟩ := exec_rdStatus_next.mp h; exact ⟨_, rfl⟩
  case rdEvents => obtain ⟨-, rfl⟩ := exec_rdEvents_next.mp h; exact ⟨_, rfl⟩
  all_goals cases hread

/-- An operation that is not a Host read delivers nothing, even where it records a fault. -/
theorem exec_keeps_returned {i : Instr} {s t : State} (h : exec i s = .next t) (hread : isRead i = false) :
    t.returned = s.returned := by
  cases i
  case evTimer => obtain ⟨-, rfl⟩ := exec_evTimer_next.mp h; rfl
  case evPins => obtain ⟨-, rfl⟩ := exec_evPins_next.mp h; rfl
  case evPwmCycle => obtain ⟨-, -, rfl⟩ := exec_evPwmCycle_next.mp h; rfl
  case svcTick => obtain ⟨-, -, -, rfl⟩ := exec_svcTick_next.mp h; exact tickService_returned s
  case svcPort => obtain ⟨-, -, -, rfl⟩ := exec_svcPort_next.mp h; exact portService_returned s.portPins s
  case setDuty => obtain ⟨-, ⟨_, -, rfl⟩ | ⟨-, rfl⟩⟩ := exec_setDuty_next.mp h <;> rfl
  case pwmInit => obtain ⟨-, ⟨-, rfl⟩ | ⟨-, rfl⟩⟩ := exec_pwmInit_next.mp h <;> rfl
  case setIe => obtain ⟨-, rfl⟩ := exec_setIe_next.mp h; rfl
  all_goals cases hread

/-- Settles O38, from what each operation delivers. -/
theorem readsReturnExactlyOneValue : Obligations.ReadsReturnExactlyOneValue := by
  unfold Obligations.ReadsReturnExactlyOneValue
  exact fun i s t h hfault => ⟨exec_read_delivers h hfault, exec_keeps_returned h⟩

/-! ## Steps (R5, R7, R8, R9) -/

/-- Settles O34: a step is an operation, which keeps the configuration, or the record of an illegal word. -/
theorem configurationStaysFixed : Obligations.ConfigurationStaysFixed := by
  unfold Obligations.ConfigurationStaysFixed
  intro s t h
  obtain ⟨-, -, w, rest, -, ⟨i, -, hexec⟩ | ⟨-, rfl⟩⟩ := step_eq_next.mp h
  · exact (exec_keeps_cfg_trace hexec).1
  · rfl

/-- The step on a word that decodes, whatever it answers. -/
theorem step_of_decode_ok {s : State} {x : Word} {rest : List Word} {i : Instr} (hadm : s.cfg.admissible = true)
    (hfault : s.fault = none) (htrace : s.trace = x :: rest) (hdec : decode s.cfg.portBits x = .ok i) :
    step s = exec i { s with trace := rest } := by
  rw [step_of_fetch_ok (fetchWord_eq_ok.mpr ⟨hadm, hfault, rest, htrace, rfl⟩)]
  simp only [hdec]

/-- Settles O9. -/
theorem stepRunsTheDecodedOperation : Obligations.StepRunsTheDecodedOperation := by
  unfold Obligations.StepRunsTheDecodedOperation
  exact fun _ _ _ _ hadm hfault htrace hdec => step_of_decode_ok hadm hfault htrace hdec

/-- Under an admissible configuration a step stops for the recorded fault, for want of a word, or as its operation does. -/
theorem step_ne_inadmissibleConfig {s : State} (hadm : s.cfg.admissible = true) :
    step s ≠ .refused .inadmissibleConfig := by
  intro h
  cases hfault : s.fault with
  | some f =>
    rw [step_of_fetch_error (fetchWord_faulted hadm hfault)] at h
    cases h
  | none =>
    cases htrace : s.trace with
    | nil =>
      rw [step_of_fetch_error (fetchWord_ended hadm hfault htrace)] at h
      cases h
    | cons w rest =>
      cases hdec : decode s.cfg.portBits w with
      | ok i =>
        rw [step_of_decode_ok hadm hfault htrace hdec] at h
        cases exec_eq_refused h
      | error e =>
        cases e
        rw [step_eq_next.mpr ⟨hadm, hfault, w, rest, htrace, .inr ⟨hdec, rfl⟩⟩] at h
        cases h

theorem runTrace_inadmissible {s : State} (h : s.cfg.admissible = false) (ws : List Word) : runTrace ws s = .notARun := by
  simp [runTrace, h]

/-- Settles O11: `admissible` is every bullet of R9, and a step and a trace test it first. -/
theorem inadmissibleConfigurationsAreRefused : Obligations.InadmissibleConfigurationsAreRefused := by
  unfold Obligations.InadmissibleConfigurationsAreRefused
  intro s c everyBullet
  have hiff : s.cfg.admissible = true ↔ everyBullet := s.cfg.admissible_iff_everyBullet
  rw [← hiff]
  constructor
  · intro hadm
    exact ⟨step_ne_inadmissibleConfig hadm,
      fun hfault => ⟨s, [gates s], (runTrace_admissible hadm []).trans (runWords_nil hfault)⟩⟩
  · intro hnot
    have hinadm : s.cfg.admissible = false := Bool.eq_false_of_not_eq_true hnot
    exact ⟨step_of_fetch_error (fetchWord_inadmissible hinadm), runTrace_inadmissible hinadm⟩

/-! ## Traces of words are runs of operations (R7, R258) -/

/-- One word of a trace is one operation: where no other word is left, the step on the word of `i` is `exec i`. -/
theorem step_encode {i : Instr} {s : State} (hadm : s.cfg.admissible = true) (hfault : s.fault = none)
    (htrace : s.trace = []) (hwf : i.wellFormed s.cfg.portBits = true) :
    step { s with trace := [encode i] } = exec i s := by
  have hdec : decode s.cfg.portBits (encode i) = .ok i :=
    Laws.decode_encode (Config.portBits_le_of_admissible hadm) hwf
  have hback : ({ s with trace := [] } : State) = s := by rw [← htrace]
  calc step { s with trace := [encode i] }
      = exec i { s with trace := [] } :=
        step_of_decode_ok (s := { s with trace := [encode i] }) hadm hfault rfl hdec
    _ = exec i s := by rw [hback]

/-- The words of operations complete exactly as the operations run. The state may hold a fault: then neither side runs. -/
theorem runWords_encode_completed {ops : List Instr} {s t : State} (hadm : s.cfg.admissible = true) (htrace : s.trace = [])
    (hwf : ∀ i ∈ ops, i.wellFormed s.cfg.portBits = true) :
    (∃ gs, runWords (ops.map encode) s = .completed t gs ∧ gs.length = ops.length + 1) ↔
      (execAll ops s = .next t ∧ t.fault = none) := by
  induction ops generalizing s with
  | nil =>
    rw [execAll_nil]
    cases hfault : s.fault with
    | none =>
      rw [List.map_nil, runWords_nil hfault]
      constructor
      · rintro ⟨gs, h, -⟩
        cases h
        exact ⟨rfl, hfault⟩
      · rintro ⟨rfl, -⟩
        exact ⟨_, rfl, rfl⟩
    | some f =>
      constructor
      · rintro ⟨gs, h, -⟩
        simp [runWords, hfault] at h
      · rintro ⟨rfl, hnone⟩
        rw [hfault] at hnone
        cases hnone
  | cons i is ih =>
    obtain ⟨hwfi, hwfis⟩ := List.forall_mem_cons.mp hwf
    have rest : ∀ u, exec i s = .next u →
        ((∃ gs, runWords (is.map encode) u = .completed t gs ∧ gs.length = is.length + 1) ↔
          (execAll is u = .next t ∧ t.fault = none)) := by
      intro u hu
      obtain ⟨hcfg, htr⟩ := exec_keeps_cfg_trace hu
      exact ih (by rw [hcfg, hadm]) (htr.trans htrace) (by rw [hcfg]; exact hwfis)
    rw [List.map_cons, execAll_cons]
    constructor
    · rintro ⟨gs, h, hlen⟩
      obtain ⟨hfault, u, hs, hstep, hrun, rfl⟩ := runWords_cons_completed.mp h
      have hu : exec i s = .next u := (step_encode hadm hfault htrace hwfi).symm.trans hstep
      obtain ⟨hall, hnone⟩ := (rest u hu).mp ⟨hs, hrun, Nat.succ.inj hlen⟩
      exact ⟨⟨u, hu, hall⟩, hnone⟩
    · rintro ⟨⟨u, hu, hall⟩, hnone⟩
      obtain ⟨hs, hrun, hlen⟩ := (rest u hu).mpr ⟨hall, hnone⟩
      have hfault : s.fault = none := exec_next_fault hu
      have hstep : step { s with trace := [encode i] } = .next u := (step_encode hadm hfault htrace hwfi).trans hu
      exact ⟨gates s :: hs, runWords_cons_completed.mpr ⟨hfault, u, hs, hstep, hrun, rfl⟩, congrArg Nat.succ hlen⟩

/-- Settles O60, by induction on the operations. -/
theorem tracesAreRunsOfTheirOperations : Obligations.TracesAreRunsOfTheirOperations := by
  unfold Obligations.TracesAreRunsOfTheirOperations
  intro ops s t hadm _ htrace hwf
  rw [runTrace_admissible hadm]
  exact runWords_encode_completed hadm htrace hwf

end Sys2Proof.Machine
end

section
/-! The state elements (10_state.md): the two bounds the invariants need of the decoder and of the duty operand, which
operation writes which element (R50), what follows from that for the sticky bits and for the Host, and the invariants of R51. -/

/-! ## Bounds on operands (R42, R46) -/

namespace Sys2Proof.Laws

theorem decodeFields_evPins_fits {portBits : Nat} {op sel : BitVec 4} {rsv : BitVec 8} {data v : Half}
    (h : decodeFields portBits op sel rsv data = .ok (.evPins v)) : v.toNat < 2 ^ portBits := by
  simp only [decodeFields, ite_eq_iff, reduceCtorEq, Except.ok.injEq, Instr.evPins.injEq, and_false, false_or,
    or_false] at h
  obtain ⟨-, -, -, -, -, ⟨-, hfits⟩, rfl⟩ := h
  exact hfits

/-- Of the operand ranges of R98 the decoder has one to keep: the pins of EV_PINS. -/
theorem wellFormed_of_decode {portBits : Nat} (hp : portBits ≤ 16) {x : Word} {i : Instr}
    (h : decode portBits x = .ok i) : i.wellFormed portBits = true := by
  cases i with
  | evPins v => exact decide_eq_true (decodeFields_evPins_fits ((decode_fields portBits hp x).symm.trans h))
  | _ => rfl

end Sys2Proof.Laws

namespace Sys2Proof.Machine

/-- The shift keeps the order of the clamp (R51 item 8). -/
theorem dutyOperand_le (c : Config) (d : Half) : dutyOperand c d ≤ maxDutyHw c :=
  Nat.div_le_div_right (Int.toNat_le.mpr (clamp_bounds (Int.natCast_nonneg c.maxDuty)).2)

/-! ## The "written by" column of the access table (R50) -/

/-- For each element of the state: the step from `s` to `t` kept it, or `i` is an operation that R50 lists for it. -/
structure WrittenAsListed (i : Instr) (s t : State) : Prop where
  tick : t.tick = s.tick ∨ i = .svcTick
  ev50ms : t.ev50ms = s.ev50ms ∨ i = .svcTick ∨ i = .rdEvents
  ev100ms : t.ev100ms = s.ev100ms ∨ i = .svcTick ∨ i = .rdEvents
  ev1s : t.ev1s = s.ev1s ∨ i = .svcTick ∨ i = .rdEvents
  tmrPend : t.tmrPend = s.tmrPend ∨ i = .evTimer ∨ i = .svcTick
  tmrOverrun : t.tmrOverrun = s.tmrOverrun ∨ i = .evTimer
  tickArmed : t.tickArmed = s.tickArmed ∨ i = .setIe true
  dbState : t.dbState = s.dbState ∨ i = .svcTick ∨ i = .svcPort
  countdown : t.countdown = s.countdown ∨ i = .svcTick ∨ i = .svcPort
  rawLevel : t.rawLevel = s.rawLevel ∨ i = .svcPort
  stableLevel : t.stableLevel = s.stableLevel ∨ i = .svcTick
  pressEvent : t.pressEvent = s.pressEvent ∨ i = .svcTick ∨ i = .rdKey
  portPins : t.portPins = s.portPins ∨ ∃ v, i = .evPins v
  pcPend : t.pcPend = s.pcPend ∨ (∃ v, i = .evPins v) ∨ i = .svcPort
  prevState : t.prevState = s.prevState ∨ i = .svcPort
  position : t.position = s.position ∨ i = .svcPort
  dutyHw : t.dutyHw = s.dutyHw ∨ ∃ c d, i = .setDuty c d
  pwmPeriod : t.pwmPeriod = s.pwmPeriod ∨ ∃ p, i = .pwmInit p
  pwmInitDone : t.pwmInitDone = s.pwmInitDone ∨ ∃ p, i = .pwmInit p
  pwmRunning : t.pwmRunning = s.pwmRunning ∨ i = .evPwmCycle
  prevPosition : t.prevPosition = s.prevPosition ∨ i = .svcTick
  speed : t.speed = s.speed ∨ i = .svcTick
  ie : t.ie = s.ie ∨ ∃ b, i = .setIe b

/-- A step that records a fault writes no element at all (R240). -/
theorem writtenAsListed_fault (i : Instr) (s : State) (f : Option FaultRecord) :
    WrittenAsListed i s { s with fault := f } := by
  constructor <;> exact .inl rfl

/-- Nor does delivering a result (R14). -/
theorem writtenAsListed_deliver (i : Instr) (s : State) (v : Half) : WrittenAsListed i s (deliver v s) := by
  constructor <;> exact .inl rfl

theorem exec_writtenAsListed {i : Instr} {s t : State} (h : exec i s = .next t) : WrittenAsListed i s t := by
  cases i
  case evTimer => obtain ⟨-, rfl⟩ := exec_evTimer_next.mp h; constructor <;> simp
  case evPins => obtain ⟨-, rfl⟩ := exec_evPins_next.mp h; constructor <;> simp
  case evPwmCycle => obtain ⟨-, -, rfl⟩ := exec_evPwmCycle_next.mp h; constructor <;> simp
  case svcTick => obtain ⟨-, -, -, rfl⟩ := exec_svcTick_next.mp h; constructor <;> simp
  case svcPort => obtain ⟨-, -, -, rfl⟩ := exec_svcPort_next.mp h; constructor <;> simp
  case rdTick => obtain ⟨-, rfl⟩ := exec_rdTick_next.mp h; exact writtenAsListed_deliver _ s _
  case rdPos =>
    obtain ⟨-, ⟨_, -, rfl⟩ | ⟨-, rfl⟩⟩ := exec_rdPos_next.mp h
    · exact writtenAsListed_deliver _ s _
    · exact writtenAsListed_fault _ s _
  case rdSpeed =>
    obtain ⟨-, ⟨_, -, rfl⟩ | ⟨-, rfl⟩⟩ := exec_rdSpeed_next.mp h
    · exact writtenAsListed_deliver _ s _
    · exact writtenAsListed_fault _ s _
  case rdKey => obtain ⟨-, rfl⟩ := exec_rdKey_next.mp h; constructor <;> simp
  case setDuty =>
    obtain ⟨-, ⟨_, -, rfl⟩ | ⟨-, rfl⟩⟩ := exec_setDuty_next.mp h
    · constructor <;> simp
    · exact writtenAsListed_fault _ s _
  case pwmInit =>
    obtain ⟨-, ⟨-, rfl⟩ | ⟨-, rfl⟩⟩ := exec_pwmInit_next.mp h
    · constructor <;> simp
    · exact writtenAsListed_fault _ s _
  case setIe b => obtain ⟨-, rfl⟩ := exec_setIe_next.mp h; cases b <;> constructor <;> simp
  case rdStatus => obtain ⟨-, rfl⟩ := exec_rdStatus_next.mp h; exact writtenAsListed_deliver _ s _
  case rdEvents => obtain ⟨-, rfl⟩ := exec_rdEvents_next.mp h; constructor <;> simp

/-- Settles O37: an element that changed was not kept, so the operation is listed for it. -/
theorem accessTableOfWrites : Obligations.AccessTableOfWrites := by
  unfold Obligations.AccessTableOfWrites
  intro i s t h
  have w := exec_writtenAsListed h
  exact ⟨w.tick.resolve_left,
    fun hne => hne.elim w.ev50ms.resolve_left fun hne => hne.elim w.ev100ms.resolve_left w.ev1s.resolve_left,
    w.tmrPend.resolve_left, w.tmrOverrun.resolve_left, w.tickArmed.resolve_left,
    fun hne => hne.elim w.dbState.resolve_left w.countdown.resolve_left,
    w.rawLevel.resolve_left, w.stableLevel.resolve_left, w.pressEvent.resolve_left,
    w.portPins.resolve_left, w.pcPend.resolve_left,
    fun hne => hne.elim w.prevState.resolve_left w.position.resolve_left,
    w.dutyHw.resolve_left,
    fun hne => hne.elim w.pwmPeriod.resolve_left w.pwmInitDone.resolve_left,
    w.pwmRunning.resolve_left,
    fun hne => hne.elim w.prevPosition.resolve_left w.speed.resolve_left,
    w.ie.resolve_left⟩

/-! ## What the Host cannot write (R250) -/

/-- Settles O36: the operations that R50 lists for these elements all belong to other agents. -/
theorem hostCannotWriteInterruptState : Obligations.HostCannotWriteInterruptState := by
  unfold Obligations.HostCannotWriteInterruptState
  intro i s t hhost h
  have w := exec_writtenAsListed h
  have notTimer : i ≠ .evTimer := by rintro rfl; cases hhost
  have notPins : ¬ ∃ v, i = .evPins v := by rintro ⟨v, rfl⟩; cases hhost
  have notCycle : i ≠ .evPwmCycle := by rintro rfl; cases hhost
  have notTick : i ≠ .svcTick := by rintro rfl; cases hhost
  have notPort : i ≠ .svcPort := by rintro rfl; cases hhost
  exact ⟨w.tick.resolve_right notTick, w.prevState.resolve_right notPort, w.position.resolve_right notPort,
    w.dbState.resolve_right (not_or.mpr ⟨notTick, notPort⟩), w.rawLevel.resolve_right notPort,
    w.stableLevel.resolve_right notTick, w.countdown.resolve_right (not_or.mpr ⟨notTick, notPort⟩),
    w.tmrPend.resolve_right (not_or.mpr ⟨notTimer, notTick⟩), w.pcPend.resolve_right (not_or.mpr ⟨notPins, notPort⟩),
    w.portPins.resolve_right notPins, w.prevPosition.resolve_right notTick, w.speed.resolve_right notTick,
    w.tmrOverrun.resolve_right notTimer, w.pwmRunning.resolve_right notCycle⟩

/-! ## The sticky bits (R35, R36, R47): the one operation that writes each never clears it -/

section stickyBits
variable {i : Instr} {s t : State}

theorem exec_keeps_tmrOverrun (h : exec i s = .next t) (hset : s.tmrOverrun = true) : t.tmrOverrun = true := by
  rcases (exec_writtenAsListed h).tmrOverrun with hkept | rfl
  · rw [hkept, hset]
  · obtain ⟨-, rfl⟩ := exec_evTimer_next.mp h
    simp [hset]

theorem exec_keeps_tickArmed (h : exec i s = .next t) (hset : s.tickArmed = true) : t.tickArmed = true := by
  rcases (exec_writtenAsListed h).tickArmed with hkept | rfl
  · rw [hkept, hset]
  · obtain ⟨-, rfl⟩ := exec_setIe_next.mp h
    simp

theorem exec_keeps_pwmInitDone (h : exec i s = .next t) (hset : s.pwmInitDone = true) : t.pwmInitDone = true := by
  rcases (exec_writtenAsListed h).pwmInitDone with hkept | ⟨p, rfl⟩
  · rw [hkept, hset]
  · obtain ⟨-, ⟨-, rfl⟩ | ⟨-, rfl⟩⟩ := exec_pwmInit_next.mp h
    · rfl
    · exact hset

theorem exec_keeps_pwmRunning (h : exec i s = .next t) (hset : s.pwmRunning = true) : t.pwmRunning = true := by
  rcases (exec_writtenAsListed h).pwmRunning with hkept | rfl
  · rw [hkept, hset]
  · obtain ⟨-, -, rfl⟩ := exec_evPwmCycle_next.mp h
    rfl

end stickyBits

/-- Settles O35: no operation clears one of the four bits, and the record of an illegal word leaves them alone. -/
theorem stickyBitsAreNeverCleared : Obligations.StickyBitsAreNeverCleared := by
  unfold Obligations.StickyBitsAreNeverCleared
  intro s t h
  obtain ⟨-, -, w, rest, -, ⟨i, -, hexec⟩ | ⟨-, rfl⟩⟩ := step_eq_next.mp h
  · exact ⟨(exec_keeps_tmrOverrun hexec :), (exec_keeps_tickArmed hexec :), (exec_keeps_pwmInitDone hexec :),
      (exec_keeps_pwmRunning hexec :)⟩
  · exact ⟨id, id, id, id⟩

/-! ## The debounce invariants (R51 items 2 to 5) -/

/-- The part of `Inv` that speaks of the debounce unit. -/
structure DebounceInv (s : State) : Prop where
  bouncing : s.dbState = .bouncing → 1 ≤ s.countdown.toNat ∧ s.countdown.toNat ≤ s.cfg.debounceTicks
  settled : s.dbState ≠ .bouncing → s.countdown = 0#8 ∧ s.rawLevel = s.stableLevel
  idle : s.cfg.keyActiveLevel = true → s.dbState = .idle → s.stableLevel ≠ s.cfg.keyActiveLevel
  pressed : s.dbState = .pressed → s.stableLevel = s.cfg.keyActiveLevel

theorem Inv.debounce {s : State} (h : Inv s) : DebounceInv s := ⟨h.bouncing, h.settled, h.idle, h.pressed⟩

/-- The debounce invariants read the configuration and four registers, and nothing else. -/
theorem DebounceInv.congr {s t : State} (h : DebounceInv s) (hcfg : t.cfg = s.cfg) (hdb : t.dbState = s.dbState)
    (hraw : t.rawLevel = s.rawLevel) (hstable : t.stableLevel = s.stableLevel) (hcount : t.countdown = s.countdown) :
    DebounceInv t where
  bouncing := by rw [hdb, hcount, hcfg]; exact h.bouncing
  settled := by rw [hdb, hcount, hraw, hstable]; exact h.settled
  idle := by rw [hdb, hstable, hcfg]; exact h.idle
  pressed := by rw [hdb, hstable, hcfg]; exact h.pressed

/-- In `Bouncing` only the bounds of the countdown remain to be shown. -/
theorem DebounceInv.of_bouncing {s : State} (hdb : s.dbState = .bouncing)
    (hcount : 1 ≤ s.countdown.toNat ∧ s.countdown.toNat ≤ s.cfg.debounceTicks) : DebounceInv s where
  bouncing := fun _ => hcount
  settled := fun hne => absurd hdb hne
  idle := fun _ h => by rw [hdb] at h; cases h
  pressed := fun h => by rw [hdb] at h; cases h

/-- The state a promotion leaves: settled on the raw level, which decides between `Pressed` and `Idle` (R141). -/
theorem DebounceInv.of_promoted {s : State} (hcount : s.countdown = 0#8) (hlevel : s.rawLevel = s.stableLevel)
    (hdb : s.dbState = if s.rawLevel = s.cfg.keyActiveLevel then .pressed else .idle) : DebounceInv s := by
  by_cases hactive : s.rawLevel = s.cfg.keyActiveLevel
  · rw [if_pos hactive] at hdb
    exact ⟨by simp [hdb], fun _ => ⟨hcount, hlevel⟩, by simp [hdb], fun _ => hlevel ▸ hactive⟩
  · rw [if_neg hactive] at hdb
    exact ⟨by simp [hdb], fun _ => ⟨hcount, hlevel⟩, fun _ _ => hlevel ▸ hactive, by simp [hdb]⟩

/-- `DebounceTick` counts down from at least 2, or promotes at 1 (R141). -/
theorem debounceTick_keeps_debounceInv {s : State} (h : DebounceInv s) : DebounceInv (debounceTick s) := by
  rcases debounceTick_cases s with ⟨-, heq⟩ | ⟨hdb, hne, heq⟩ | ⟨-, -, heq⟩ <;> rw [heq]
  · exact h
  · obtain ⟨hlow, hhigh⟩ := h.bouncing hdb
    refine .of_bouncing hdb (?_ : 1 ≤ (s.countdown - 1#8).toNat ∧ (s.countdown - 1#8).toNat ≤ s.cfg.debounceTicks)
    have hne' : s.countdown.toNat ≠ 1 := fun h1 => hne (BitVec.eq_of_toNat_eq h1)
    have hle : 1#8 ≤ s.countdown := BitVec.le_def.mpr hlow
    have hsub : (s.countdown - 1#8).toNat = s.countdown.toNat - 1 := BitVec.toNat_sub_of_le hle
    omega
  · exact .of_promoted rfl rfl rfl

/-- `DebounceRaw` restarts the countdown at N, which fits its 8 bits (R9, R142). -/
theorem debounceRaw_keeps_debounceInv {s : State} (hadm : s.cfg.admissible = true) (h : DebounceInv s) (k : Bool) :
    DebounceInv (debounceRaw k s) := by
  rcases debounceRaw_cases k s with ⟨-, heq⟩ | ⟨-, heq⟩ <;> rw [heq]
  · exact h
  · obtain ⟨-, -, ⟨hlow, hhigh⟩, -⟩ := s.cfg.admissible_iff_everyBullet.mp hadm
    have hcount : (BitVec.ofNat 8 s.cfg.debounceTicks).toNat = s.cfg.debounceTicks :=
      Nat.mod_eq_of_lt (Nat.lt_succ_of_le hhigh)
    exact .of_bouncing rfl ⟨hlow.trans hcount.ge, hcount.le⟩

/-- Outside the two services no operation touches the debounce unit; inside them it is `DebounceTick` or `DebounceRaw`. -/
theorem exec_keeps_debounceInv {i : Instr} {s t : State} (hadm : s.cfg.admissible = true) (hinv : DebounceInv s)
    (h : exec i s = .next t) : DebounceInv t := by
  by_cases hTick : i = .svcTick
  · subst hTick
    obtain ⟨-, -, -, rfl⟩ := exec_svcTick_next.mp h
    obtain ⟨hdb, hstable, hcount, -⟩ := tickService_debounce s
    exact (debounceTick_keeps_debounceInv hinv).congr (by simp) hdb (by simp) hstable hcount
  by_cases hPort : i = .svcPort
  · subst hPort
    obtain ⟨-, -, -, rfl⟩ := exec_svcPort_next.mp h
    obtain ⟨hdb, hcount⟩ := portService_debounce s.portPins s
    exact (debounceRaw_keeps_debounceInv hadm hinv _).congr (by simp) hdb (by simp) (by simp) hcount
  have w := exec_writtenAsListed h
  have notService : ¬ (i = .svcTick ∨ i = .svcPort) := not_or.mpr ⟨hTick, hPort⟩
  exact hinv.congr (exec_keeps_cfg_trace h).1 (w.dbState.resolve_right notService) (w.rawLevel.resolve_right hPort)
    (w.stableLevel.resolve_right hTick) (w.countdown.resolve_right notService)

/-! ## The other invariants (R51 items 1, 7, 8, 9; R42), each by the operation that writes its element -/

section invariants
variable {i : Instr} {s t : State}

theorem exec_keeps_tick_lt (hinv : Inv s) (h : exec i s = .next t) : t.tick < t.cfg.tickModulus := by
  rw [(exec_keeps_cfg_trace h).1]
  rcases (exec_writtenAsListed h).tick with hkept | rfl
  · rw [hkept]
    exact hinv.tick_lt
  · obtain ⟨-, -, -, rfl⟩ := exec_svcTick_next.mp h
    rw [tickService_tick]
    exact Nat.mod_lt _ (Config.tickModulus_pos_of_admissible hinv.admissible)

/-- The carrier starts only after PWM_INIT, and `pwm_init_done` is never cleared. -/
theorem exec_keeps_running (hinv : Inv s) (h : exec i s = .next t) (hrun : t.pwmRunning = true) : t.pwmInitDone = true := by
  apply exec_keeps_pwmInitDone h
  rcases (exec_writtenAsListed h).pwmRunning with hkept | rfl
  · exact hinv.running (hkept ▸ hrun)
  · obtain ⟨-, hdone, -⟩ := exec_evPwmCycle_next.mp h
    exact hdone

theorem exec_keeps_duty (hinv : Inv s) (h : exec i s = .next t) (ch : Ident) : t.dutyHw.get ch ≤ maxDutyHw t.cfg := by
  rw [(exec_keeps_cfg_trace h).1]
  rcases (exec_writtenAsListed h).dutyHw with hkept | ⟨c, d, rfl⟩
  · rw [hkept]
    exact hinv.duty ch
  · obtain ⟨-, ⟨written, -, rfl⟩ | ⟨-, rfl⟩⟩ := exec_setDuty_next.mp h
    · by_cases hch : ch = written
      · rw [hch, Two.get_set_same]
        exact dutyOperand_le s.cfg d
      · rw [Two.get_set_other _ hch]
        exact hinv.duty ch
    · exact hinv.duty ch

/-- A loss is recorded only while recording is armed, and `tick_armed` is never cleared. -/
theorem exec_keeps_overrun (hinv : Inv s) (h : exec i s = .next t) (hover : t.tmrOverrun = true) : t.tickArmed = true := by
  apply exec_keeps_tickArmed h
  rcases (exec_writtenAsListed h).tmrOverrun with hkept | rfl
  · exact hinv.overrun (hkept ▸ hover)
  · obtain ⟨-, rfl⟩ := exec_evTimer_next.mp h
    rcases Bool.or_eq_true_iff.mp hover with hold | hlost
    · exact hinv.overrun hold
    · exact (Bool.and_eq_true_iff.mp hlost).2

theorem exec_keeps_pins (hinv : Inv s) (hwf : i.wellFormed s.cfg.portBits = true) (h : exec i s = .next t) :
    t.portPins.toNat < 2 ^ t.cfg.portBits := by
  rw [(exec_keeps_cfg_trace h).1]
  rcases (exec_writtenAsListed h).portPins with hkept | ⟨v, rfl⟩
  · rw [hkept]
    exact hinv.pins
  · obtain ⟨-, rfl⟩ := exec_evPins_next.mp h
    exact of_decide_eq_true hwf

/-- Every operation the assembler accepts keeps the invariants; an EV_PINS wider than the port would not (log entry 22). -/
theorem exec_keeps_inv (hinv : Inv s) (hwf : i.wellFormed s.cfg.portBits = true) (h : exec i s = .next t) : Inv t :=
  have hdebounce := exec_keeps_debounceInv hinv.admissible hinv.debounce h
  { admissible := (exec_keeps_cfg_trace h).1 ▸ hinv.admissible
    tick_lt := exec_keeps_tick_lt hinv h
    bouncing := hdebounce.bouncing
    settled := hdebounce.settled
    idle := hdebounce.idle
    pressed := hdebounce.pressed
    running := exec_keeps_running hinv h
    duty := exec_keeps_duty hinv h
    overrun := exec_keeps_overrun hinv h
    pins := exec_keeps_pins hinv hwf h }

/-- The invariants do not read the record of the run. -/
theorem Inv.setRun (hinv : Inv s) (f : Option FaultRecord) (rest : List Word) :
    Inv { s with fault := f, trace := rest } :=
  { hinv with }

end invariants

/-- Settles O33: a decoded operation is one the assembler accepts, and the record of an illegal word writes no element. -/
theorem everyStepKeepsTheInvariant : Obligations.EveryStepKeepsTheInvariant := by
  unfold Obligations.EveryStepKeepsTheInvariant
  intro s t hinv h
  obtain ⟨hadm, -, w, rest, -, ⟨i, hdec, hexec⟩ | ⟨-, rfl⟩⟩ := step_eq_next.mp h
  · have hwf := Laws.wellFormed_of_decode (Config.portBits_le_of_admissible hadm) hdec
    exact exec_keeps_inv (hinv.setRun s.fault rest) hwf hexec
  · exact hinv.setRun _ rest

end Sys2Proof.Machine
end

section
/-! The order and the atomicity of operations (20_memory.md): words as bytes, repeated operations, and what a run of operations
leaves alone while the services are masked or while no one reads the key. -/

/-! ## Words in transport (R72) -/

namespace Sys2Proof.Laws

/-- The four bytes of a word, put together again, are the word: each byte adjoins the one before it. -/
theorem bytes_append_eq_word (w : Word) :
    w.extractLsb' 24 8 ++ w.extractLsb' 16 8 ++ w.extractLsb' 8 8 ++ w.extractLsb' 0 8 = w := by
  rw [BitVec.extractLsb'_append_extractLsb'_eq_extractLsb' (by decide),
    BitVec.extractLsb'_append_extractLsb'_eq_extractLsb' (by decide),
    BitVec.extractLsb'_append_extractLsb'_eq_extractLsb' (by decide)]
  exact BitVec.extractLsb'_eq_self

theorem wordsOfBytes_wordToBytes_append (w : Word) (bytes : List (BitVec 8)) :
    wordsOfBytes (wordToBytes w ++ bytes) = (wordsOfBytes bytes).map (w :: ·) := by
  have hstep : wordsOfBytes (wordToBytes w ++ bytes) = (wordsOfBytes bytes).map
      ((w.extractLsb' 24 8 ++ w.extractLsb' 16 8 ++ w.extractLsb' 8 8 ++ w.extractLsb' 0 8 : Word) :: ·) := rfl
  rw [hstep, bytes_append_eq_word]

end Sys2Proof.Laws

namespace Sys2Proof.Machine

/-- Settles O7, by induction on the words: four bytes are read back as one word. -/
theorem transportOfWordsRoundTrips : Obligations.TransportOfWordsRoundTrips := by
  unfold Obligations.TransportOfWordsRoundTrips
  intro ws
  induction ws with
  | nil => rfl
  | cons w ws ih => rw [List.flatMap_cons, Laws.wordsOfBytes_wordToBytes_append, ih, Option.map_some]

/-! ## An operation repeated (R76) -/

/-- Writing a register twice with the same value is writing it once. -/
theorem Two.set_set_same {α : Type} (r : Two α) (w : Ident) (v : α) : (r.set w v).set w v = r.set w v := by
  cases w <;> rfl

theorem encode_pwmInit (p : Half) : encode (.pwmInit p) = 0xB000#16 ++ p := rfl

section repeated
variable {s t : State}

/-- What a read without a side effect delivers does not depend on what was delivered before, so it delivers it again. -/
theorem exec_pureRead_twice {i : Instr}
    (hread : i = .rdTick ∨ i = .rdStatus ∨ (∃ w, i = .rdPos w) ∨ (∃ w, i = .rdSpeed w))
    (h : exec i s = .next t) (hfault : t.fault = none) :
    ∃ v, t = deliver v s ∧ exec i t = .next (deliver v t) := by
  obtain rfl | rfl | ⟨w, rfl⟩ | ⟨w, rfl⟩ := hread
  · obtain ⟨-, rfl⟩ := exec_rdTick_next.mp h
    exact ⟨_, rfl, exec_rdTick_next.mpr ⟨hfault, rfl⟩⟩
  · obtain ⟨-, rfl⟩ := exec_rdStatus_next.mp h
    exact ⟨_, rfl, exec_rdStatus_next.mpr ⟨hfault, rfl⟩⟩
  · obtain ⟨-, ⟨wheel, hsel, rfl⟩ | ⟨-, rfl⟩⟩ := exec_rdPos_next.mp h
    · exact ⟨_, rfl, exec_rdPos_next.mpr ⟨hfault, .inl ⟨wheel, hsel, rfl⟩⟩⟩
    · cases hfault
  · obtain ⟨-, ⟨wheel, hsel, rfl⟩ | ⟨-, rfl⟩⟩ := exec_rdSpeed_next.mp h
    · exact ⟨_, rfl, exec_rdSpeed_next.mpr ⟨hfault, .inl ⟨wheel, hsel, rfl⟩⟩⟩
    · cases hfault

/-- With the event flags clear, the word that shows them is 0. -/
theorem eventWord_eq_zero (h50 : s.ev50ms = false) (h100 : s.ev100ms = false) (h1s : s.ev1s = false) :
    eventWord s = 0#16 := by
  simp [eventWord, h50, h100, h1s]

/-- What a read-and-clear read reports is cleared, so a second one reports 0 and clears nothing more. -/
theorem exec_readAndClear_twice {i : Instr} (hread : i = .rdKey ∨ i = .rdEvents) (h : exec i s = .next t) :
    exec i t = .next (deliver 0#16 t) := by
  obtain rfl | rfl := hread
  · obtain ⟨hfault, rfl⟩ := exec_rdKey_next.mp h
    exact exec_rdKey_next.mpr ⟨hfault, rfl⟩
  · obtain ⟨hfault, rfl⟩ := exec_rdEvents_next.mp h
    exact exec_rdEvents_next.mpr ⟨hfault, congrArg (deliver · _) (eventWord_eq_zero rfl rfl rfl).symm⟩

theorem exec_setIe_twice {b : Bool} (h : exec (.setIe b) s = .next t) : exec (.setIe b) t = .next t := by
  obtain ⟨hfault, rfl⟩ := exec_setIe_next.mp h
  exact exec_setIe_next.mpr ⟨hfault, by simp⟩

theorem exec_setDuty_twice {c : BitVec 4} {d : Half} (h : exec (.setDuty c d) s = .next t) (hfault : t.fault = none) :
    exec (.setDuty c d) t = .next t := by
  obtain ⟨-, ⟨ch, hsel, rfl⟩ | ⟨-, rfl⟩⟩ := exec_setDuty_next.mp h
  · exact exec_setDuty_next.mpr ⟨hfault, .inl ⟨ch, hsel, by simp only [Two.set_set_same]⟩⟩
  · cases hfault

/-- A PWM_INIT without a fault was the first one; the next one, of any period, records the fault of R181. -/
theorem exec_pwmInit_twice {p q : Half} (h : exec (.pwmInit p) s = .next t) (hfault : t.fault = none) :
    exec (.pwmInit q) t = .next (faultedWith .pwmReinit (0xB000#16 ++ q) t) := by
  rw [← encode_pwmInit]
  obtain ⟨-, ⟨-, rfl⟩ | ⟨-, rfl⟩⟩ := exec_pwmInit_next.mp h
  · exact exec_pwmInit_next.mpr ⟨hfault, .inr ⟨rfl, rfl⟩⟩
  · cases hfault

end repeated

/-- Settles O39, bullet by bullet of R76. -/
theorem repeatedOperations : Obligations.RepeatedOperations := by
  unfold Obligations.RepeatedOperations
  intro s t _
  refine ⟨fun i hread h hfault => exec_pureRead_twice hread h hfault, fun i hread h => exec_readAndClear_twice hread h,
    ?_, fun p q h hfault => exec_pwmInit_twice h hfault⟩
  rintro i (⟨b, rfl⟩ | ⟨c, d, rfl⟩) h hfault
  · exact exec_setIe_twice h
  · exact exec_setDuty_twice h hfault

/-! ## Runs of chosen operations -/

/-- What each operation of a run keeps, the run keeps. -/
theorem execAll_keeps_of_mem {P : State → Prop} {ops : List Instr}
    (hstep : ∀ i ∈ ops, ∀ s t, exec i s = .next t → P s → P t) {s t : State} (h : execAll ops s = .next t) (hp : P s) :
    P t := by
  induction ops generalizing s with
  | nil => exact execAll_nil.mp h ▸ hp
  | cons i is ih =>
    obtain ⟨u, hu, hrest⟩ := execAll_cons.mp h
    obtain ⟨hi, his⟩ := List.forall_mem_cons.mp hstep
    exact ih his hrest (hi s u hu hp)

/-- Every operation of a run steps, from the state that the operations before it left. -/
theorem execAll_mem_steps {ops : List Instr} {s t : State} (h : execAll ops s = .next t) {i : Instr} (hi : i ∈ ops) :
    ∃ before u v, before ⊆ ops ∧ execAll before s = .next u ∧ exec i u = .next v := by
  obtain ⟨before, after, rfl⟩ := List.append_of_mem hi
  obtain ⟨u, hbefore, hrest⟩ := execAll_append.mp h
  obtain ⟨v, hv, -⟩ := execAll_cons.mp hrest
  exact ⟨before, u, v, List.subset_append_left before _, hbefore, hv⟩

/-! ## Critical sections (R79, R244) -/

section masked
variable {i : Instr} {s t : State}

theorem exec_keeps_masked (hi : i ≠ .setIe true) (h : exec i s = .next t) (hie : s.ie = false) : t.ie = false := by
  rcases (exec_writtenAsListed h).ie with hkept | ⟨b, rfl⟩
  · rw [hkept, hie]
  · obtain ⟨-, rfl⟩ := exec_setIe_next.mp h
    exact Bool.eq_false_of_not_eq_true fun hb => hi (congrArg Instr.setIe hb)

theorem svcTick_not_masked (h : exec .svcTick s = .next t) : s.ie = true := by
  obtain ⟨-, -, hie, -⟩ := exec_svcTick_next.mp h
  exact hie

theorem svcPort_not_masked (h : exec .svcPort s = .next t) : s.ie = true := by
  obtain ⟨-, -, hie, -⟩ := exec_svcPort_next.mp h
  exact hie

end masked

/-- What a critical section of the operations `ops` has made of `s` in `u`: the services are still masked, and the four units
are as they were but for the flags that a read-and-clear read of `ops` has cleared. -/
structure FrozenSince (ops : List Instr) (s u : State) : Prop where
  masked : u.ie = false
  tick : u.tick = s.tick
  dbState : u.dbState = s.dbState
  rawLevel : u.rawLevel = s.rawLevel
  stableLevel : u.stableLevel = s.stableLevel
  countdown : u.countdown = s.countdown
  prevState : u.prevState = s.prevState
  position : u.position = s.position
  prevPosition : u.prevPosition = s.prevPosition
  speed : u.speed = s.speed
  pressEvent : u.pressEvent = s.pressEvent ∨ (Instr.rdKey ∈ ops ∧ u.pressEvent = false)
  events : (u.ev50ms = s.ev50ms ∧ u.ev100ms = s.ev100ms ∧ u.ev1s = s.ev1s) ∨
    (Instr.rdEvents ∈ ops ∧ u.ev50ms = false ∧ u.ev100ms = false ∧ u.ev1s = false)

theorem FrozenSince.start {s : State} (ops : List Instr) (hie : s.ie = false) : FrozenSince ops s s :=
  ⟨hie, rfl, rfl, rfl, rfl, rfl, rfl, rfl, rfl, rfl, .inl rfl, .inl ⟨rfl, rfl, rfl⟩⟩

section frozen
variable {ops : List Instr} {i : Instr} {s u t : State}

/-- Only RD_KEY writes `press_event` where SVC_TICK does not run. -/
theorem FrozenSince.pressEvent_step (f : FrozenSince ops s u) (hmem : i ∈ ops) (h : exec i u = .next t)
    (notTick : i ≠ .svcTick) : t.pressEvent = s.pressEvent ∨ (Instr.rdKey ∈ ops ∧ t.pressEvent = false) := by
  rcases (exec_writtenAsListed h).pressEvent with hkept | rfl | rfl
  · rw [hkept]
    exact f.pressEvent
  · exact absurd rfl notTick
  · obtain ⟨-, rfl⟩ := exec_rdKey_next.mp h
    exact .inr ⟨hmem, rfl⟩

/-- Only RD_EVENTS writes the event flags where SVC_TICK does not run. -/
theorem FrozenSince.events_step (f : FrozenSince ops s u) (hmem : i ∈ ops) (h : exec i u = .next t)
    (notTick : i ≠ .svcTick) :
    (t.ev50ms = s.ev50ms ∧ t.ev100ms = s.ev100ms ∧ t.ev1s = s.ev1s) ∨
      (Instr.rdEvents ∈ ops ∧ t.ev50ms = false ∧ t.ev100ms = false ∧ t.ev1s = false) := by
  by_cases hread : i = .rdEvents
  · subst hread
    obtain ⟨-, rfl⟩ := exec_rdEvents_next.mp h
    exact .inr ⟨hmem, rfl, rfl, rfl⟩
  · have w := exec_writtenAsListed h
    have notWriter : ¬ (i = .svcTick ∨ i = .rdEvents) := not_or.mpr ⟨notTick, hread⟩
    rw [w.ev50ms.resolve_right notWriter, w.ev100ms.resolve_right notWriter, w.ev1s.resolve_right notWriter]
    exact f.events

/-- The services are not enabled, and no other operation but the two read-and-clear reads writes an element of the four units. -/
theorem FrozenSince.step (f : FrozenSince ops s u) (hmem : i ∈ ops) (hi : i ≠ .setIe true) (h : exec i u = .next t) :
    FrozenSince ops s t := by
  have w := exec_writtenAsListed h
  have notTick : i ≠ .svcTick := by rintro rfl; exact Bool.false_ne_true (f.masked.symm.trans (svcTick_not_masked h))
  have notPort : i ≠ .svcPort := by rintro rfl; exact Bool.false_ne_true (f.masked.symm.trans (svcPort_not_masked h))
  have notService : ¬ (i = .svcTick ∨ i = .svcPort) := not_or.mpr ⟨notTick, notPort⟩
  exact {
    masked := exec_keeps_masked hi h f.masked
    tick := (w.tick.resolve_right notTick).trans f.tick
    dbState := (w.dbState.resolve_right notService).trans f.dbState
    rawLevel := (w.rawLevel.resolve_right notPort).trans f.rawLevel
    stableLevel := (w.stableLevel.resolve_right notTick).trans f.stableLevel
    countdown := (w.countdown.resolve_right notService).trans f.countdown
    prevState := (w.prevState.resolve_right notPort).trans f.prevState
    position := (w.position.resolve_right notPort).trans f.position
    prevPosition := (w.prevPosition.resolve_right notTick).trans f.prevPosition
    speed := (w.speed.resolve_right notTick).trans f.speed
    pressEvent := f.pressEvent_step hmem h notTick
    events := f.events_step hmem h notTick }

theorem execAll_frozenSince (hie : s.ie = false) (hops : Instr.setIe true ∉ ops) (h : execAll ops s = .next t) :
    FrozenSince ops s t :=
  execAll_keeps_of_mem (fun _ hmem _ _ hstep f => f.step hmem (ne_of_mem_of_not_mem hmem hops) hstep) h
    (.start ops hie)

/-- An operation that steps only unmasked has no place in a critical section. -/
theorem not_mem_of_masked (hi : ∀ u v, exec i u = .next v → u.ie = true) (hie : s.ie = false)
    (hops : Instr.setIe true ∉ ops) (h : execAll ops s = .next t) : i ∉ ops := by
  intro hmem
  obtain ⟨before, u, v, hsub, hbefore, hexec⟩ := execAll_mem_steps h hmem
  have hmasked : u.ie = false := (execAll_frozenSince hie (fun hset => hops (hsub hset)) hbefore).masked
  exact Bool.false_ne_true (hmasked.symm.trans (hi u v hexec))

end frozen

/-- Settles O55: every operation of a critical section keeps the units frozen, and a service could not step in it. -/
theorem criticalSectionsFreezeTheUnits : Obligations.CriticalSectionsFreezeTheUnits := by
  unfold Obligations.CriticalSectionsFreezeTheUnits
  intro ops s t hie hops h
  have f := execAll_frozenSince hie hops h
  exact ⟨not_mem_of_masked (fun _ _ => svcTick_not_masked) hie hops h,
    not_mem_of_masked (fun _ _ => svcPort_not_masked) hie hops h,
    f.masked, f.tick, f.dbState, f.rawLevel, f.stableLevel, f.countdown, f.prevState, f.position, f.prevPosition, f.speed,
    f.pressEvent, f.events⟩

/-! ## Press edges between reads (R81, R143) -/

/-- `DebounceTick` sets `press_event` or leaves it (R141). -/
theorem debounceTick_keeps_pressEvent {s : State} (hset : s.pressEvent = true) : (debounceTick s).pressEvent = true := by
  rcases debounceTick_cases s with ⟨-, heq⟩ | ⟨-, -, heq⟩ | ⟨-, -, heq⟩ <;> rw [heq]
  · exact hset
  · exact hset
  · exact Bool.or_eq_true_iff.mpr (.inl hset)

/-- Only RD_KEY clears `press_event`. -/
theorem exec_keeps_pressEvent {i : Instr} {s t : State} (hi : i ≠ .rdKey) (h : exec i s = .next t)
    (hset : s.pressEvent = true) : t.pressEvent = true := by
  rcases (exec_writtenAsListed h).pressEvent with hkept | rfl | rfl
  · rw [hkept, hset]
  · obtain ⟨-, -, -, rfl⟩ := exec_svcTick_next.mp h
    obtain ⟨-, -, -, hpress⟩ := tickService_debounce s
    rw [hpress]
    exact debounceTick_keeps_pressEvent hset
  · exact absurd rfl hi

theorem exec_rdKey_of_pressEvent {s : State} (hset : s.pressEvent = true) (hfault : s.fault = none) :
    exec .rdKey s = .next (deliver 1#16 { s with pressEvent := false }) :=
  exec_rdKey_next.mpr ⟨hfault, by rw [hset]; rfl⟩

/-- Settles O56: no operation of the run clears the edge, so the next RD_KEY delivers it. -/
theorem pressEdgesWaitForTheNextRead : Obligations.PressEdgesWaitForTheNextRead := by
  unfold Obligations.PressEdgesWaitForTheNextRead
  intro ops s t hset hops h hfault
  have hstill : t.pressEvent = true :=
    execAll_keeps_of_mem (P := fun u => u.pressEvent = true)
      (fun _ hmem _ _ => exec_keeps_pressEvent (ne_of_mem_of_not_mem hmem hops)) h hset
  exact ⟨hstill, _, exec_rdKey_of_pressEvent hstill hfault, rfl⟩

end Sys2Proof.Machine
end

section
/-! The encoding (30_encoding.md): the decoder and the table, the decoder and the encoder, the illegal words, and what the
assembler accepts. -/

/-! ## The decoder follows the table (R92, R95) -/

namespace Sys2Proof.Laws

/-- The `op` value a row fixes: what R92 tells the rows apart by. -/
def rowOp (r : OpRow) : BitVec 4 := opField r.fixedBits

theorem rowOp_table (portBits : Nat) : (opTable portBits).map rowOp =
    [0x1#4, 0x2#4, 0x3#4, 0x4#4, 0x5#4, 0x6#4, 0x7#4, 0x8#4, 0x9#4, 0xA#4, 0xB#4, 0xC#4, 0xD#4, 0xE#4] := by
  simp only [opTable, List.map_cons, List.map_nil, rowOp]
  decide

/-- R92: "The rows' `op` values are distinct". -/
theorem rowOp_nodup (portBits : Nat) : ((opTable portBits).map rowOp).Nodup := by
  rw [rowOp_table]
  decide

/-- Every row's mask covers the whole of `op`. -/
theorem opField_mask_of_mem {portBits : Nat} (h : portBits ≤ 16) : ∀ r ∈ opTable portBits, opField r.mask = 0xF#4 := by
  simp only [opTable, List.forall_mem_cons, pinsMask_fields portBits h, opField_mkWord]
  decide

/-- A word that matches a row has the row's `op`. -/
theorem opField_eq_rowOp {portBits : Nat} (h : portBits ≤ 16) {r : OpRow} (hr : r ∈ opTable portBits) {x : Word}
    (hx : x &&& r.mask = r.fixedBits) : opField x = rowOp r :=
  calc opField x = opField x &&& opField r.mask := by rw [opField_mask_of_mem h r hr, and_ones4]
    _ = opField (x &&& r.mask) := BitVec.extractLsb'_and.symm
    _ = rowOp r := congrArg opField hx

theorem row_unique {portBits : Nat} (h : portBits ≤ 16) {r r' : OpRow} (hr : r ∈ opTable portBits)
    (hr' : r' ∈ opTable portBits) {x : Word} (hx : x &&& r.mask = r.fixedBits) (hx' : x &&& r'.mask = r'.fixedBits) :
    r = r' :=
  List.inj_on_of_nodup_map (rowOp_nodup portBits) hr hr'
    ((opField_eq_rowOp h hr hx).symm.trans (opField_eq_rowOp h hr' hx'))

theorem matchesWord_iff (r : OpRow) (x : Word) : r.matchesWord x = true ↔ x &&& r.mask = r.fixedBits := beq_iff_eq

/-- The decoder takes the first row that matches; as no other row does, that is the given one. -/
theorem decode_of_row {portBits : Nat} (h : portBits ≤ 16) {r : OpRow} (hr : r ∈ opTable portBits) {x : Word}
    (hx : x &&& r.mask = r.fixedBits) : decode portBits x = .ok (r.build x) := by
  have hfind : (opTable portBits).find? (·.matchesWord x) = some r := by
    cases hfirst : (opTable portBits).find? (·.matchesWord x) with
    | none => exact absurd ((matchesWord_iff r x).mpr hx) (List.find?_eq_none.mp hfirst r hr)
    | some first =>
      have hmatch : first.matchesWord x = true := List.find?_some (p := fun row : OpRow => row.matchesWord x) hfirst
      rw [row_unique h (List.mem_of_find?_eq_some hfirst) hr ((matchesWord_iff first x).mp hmatch) hx]
  simp only [decode, hfind]

theorem decode_of_no_row {portBits : Nat} {x : Word} (hx : ∀ r ∈ opTable portBits, x &&& r.mask ≠ r.fixedBits) :
    decode portBits x = .error .illegalEncoding := by
  have hfind : (opTable portBits).find? (·.matchesWord x) = none :=
    List.find?_eq_none.mpr fun r hr hmatch => hx r hr ((matchesWord_iff r x).mp hmatch)
  simp only [decode, hfind]

/-! ## The decoder and the encoder (R93 to R96) -/

/-- The data of SET_IE, whose row leaves only bit 0 open, is what the encoder makes of that bit. -/
theorem zero_append_ofBool_getLsbD {d : Half} (h : d.toNat < 2) : 0#15 ++ BitVec.ofBool (d.getLsbD 0) = d := by
  have hd : d = 0#16 ∨ d = 1#16 := by
    rw [← BitVec.toNat_inj, ← BitVec.toNat_inj]
    exact Nat.le_one_iff_eq_zero_or_eq_one.mp (Nat.le_of_lt_succ h)
  obtain rfl | rfl := hd <;> rfl

/-- A branch of the decoder that accepts has tested every field its operation does not carry against the value the encoder
writes there. SET_IE alone has such bits inside a field. -/
theorem encode_of_decodeFields {portBits : Nat} {op sel : BitVec 4} {rsv : BitVec 8} {data : Half} {i : Instr}
    (h : decodeFields portBits op sel rsv data = .ok i) : encode i = mkWord op sel rsv data := by
  revert h
  fun_cases decodeFields portBits op sel rsv data
  case case6 hrsv _ _ _ hsel _ _ hie => -- SET_IE
    rintro ⟨⟩
    obtain ⟨rfl, hdata⟩ := hie
    rw [hrsv, hsel, encode, zero_append_ofBool_getLsbD hdata]
  all_goals
    intro h
    cases h
  all_goals simp [encode, *]

theorem encode_of_decode {portBits : Nat} (h : portBits ≤ 16) {x : Word} {i : Instr} (hdec : decode portBits x = .ok i) :
    encode i = x := by
  rw [decode_fields portBits h] at hdec
  exact (encode_of_decodeFields hdec).trans (mkWord_fields x)

/-- The fields that no branch of the decoder accepts: with `op` known, its branches are the tests of one row, and the rest is
propositional. -/
theorem decodeFields_eq_error_iff (portBits : Nat) (op sel : BitVec 4) (rsv : BitVec 8) (data : Half) :
    decodeFields portBits op sel rsv data = .error .illegalEncoding ↔
      (op = 0x0#4 ∨ op = 0xF#4)
        ∨ rsv ≠ 0#8
        ∨ (sel ≠ 0#4 ∧ op ≠ 0x7#4 ∧ op ≠ 0x8#4 ∧ op ≠ 0xA#4)
        ∨ (op = 0x2#4 ∧ 2 ^ portBits ≤ data.toNat)
        ∨ (op = 0xC#4 ∧ 2 ≤ data.toNat)
        ∨ (data ≠ 0#16 ∧ op ≠ 0x2#4 ∧ op ≠ 0xA#4 ∧ op ≠ 0xB#4 ∧ op ≠ 0xC#4) := by
  unfold decodeFields
  rcases op_cases op with
    rfl | rfl | rfl | rfl | rfl | rfl | rfl | rfl | rfl | rfl | rfl | rfl | rfl | rfl | rfl | rfl <;> simp
  all_goals tauto

end Sys2Proof.Laws

namespace Sys2Proof.Machine

/-- Settles O1. -/
theorem decodeInvertsEncode : Obligations.DecodeInvertsEncode := by
  unfold Obligations.DecodeInvertsEncode
  exact fun _ _ h hwf => Laws.decode_encode h hwf

/-- Settles O2. -/
theorem encodeInvertsDecode : Obligations.EncodeInvertsDecode := by
  unfold Obligations.EncodeInvertsDecode
  exact fun _ _ _ h hdec => ⟨Laws.encode_of_decode h hdec, Laws.wellFormed_of_decode h hdec⟩

/-- Settles O3: the decoder read by fields, and the step on a word it rejects. -/
theorem illegalWordsRaiseIllegalEncoding : Obligations.IllegalWordsRaiseIllegalEncoding := by
  unfold Obligations.IllegalWordsRaiseIllegalEncoding
  constructor
  · intro x
    rw [Laws.decode_fields tablePortBits (by decide)]
    exact Laws.decodeFields_eq_error_iff 8 _ _ _ _
  · intro s x rest hadm hfault htrace hdec
    exact step_eq_next.mpr ⟨hadm, hfault, x, rest, htrace, .inr ⟨hdec, rfl⟩⟩

/-- Settles O4. -/
theorem decodeFollowsTheTable : Obligations.DecodeFollowsTheTable := by
  unfold Obligations.DecodeFollowsTheTable
  exact fun _ _ h => ⟨fun _ hr hx => Laws.decode_of_row h hr hx, Laws.decode_of_no_row⟩

/-- Settles O5: a word that matched two rows would have two `op` values. -/
theorem noWordMatchesTwoRows : Obligations.NoWordMatchesTwoRows := by
  unfold Obligations.NoWordMatchesTwoRows
  intro portBits h
  have hops : (opTable portBits).Pairwise fun a b => Laws.rowOp a ≠ Laws.rowOp b :=
    List.pairwise_map.mp (Laws.rowOp_nodup portBits)
  refine hops.imp_of_mem fun ha hb hne x hboth => hne ?_
  exact (Laws.opField_eq_rowOp h ha hboth.1).symm.trans (Laws.opField_eq_rowOp h hb hboth.2)

/-- Settles O6: each example is well-formed, so that its word decodes follows from what its word is. -/
theorem exampleEncodings : Obligations.ExampleEncodings := by
  unfold Obligations.ExampleEncodings
  intro p hp
  have hword : encode p.1 = p.2 ∧ p.1.wellFormed tablePortBits = true := by
    revert p
    decide
  obtain ⟨henc, hwf⟩ := hword
  exact ⟨henc, henc ▸ Laws.decode_encode (by decide) hwf⟩

/-! ## Operands of an assembly line (R98) -/

/-- A number inside the unsigned range of a width has one pattern, the one of that value. -/
theorem ofInt_eq_iff_toNat {n : Nat} {v : Int} (hlo : 0 ≤ v) (hhi : v < 2 ^ n) {x : BitVec n} :
    BitVec.ofInt n v = x ↔ (x.toNat : Int) = v := by
  rw [← BitVec.toNat_inj, BitVec.toNat_ofInt, Nat.cast_pow, Nat.cast_ofNat, Int.emod_eq_of_lt hlo hhi]
  omega

theorem operand16_eq_some_iff {lo hi v : Int} {x : Half} :
    operand16 lo hi v = some x ↔ lo ≤ v ∧ v ≤ hi ∧ BitVec.ofInt 16 v = x := by
  simp only [operand16, Option.ite_none_right_eq_some, Option.some.injEq, and_assoc]

theorem operand16_unsigned_iff {hi v : Int} (hbound : hi ≤ 65535) {x : Half} :
    operand16 0 hi v = some x ↔ 0 ≤ v ∧ v ≤ hi ∧ (x.toNat : Int) = v := by
  rw [operand16_eq_some_iff]
  exact and_congr_right fun hlo => and_congr_right fun hhi =>
    ofInt_eq_iff_toNat hlo (Int.lt_add_one_of_le (hhi.trans hbound))

theorem operand16_signed_iff {v : Int} {d : Half} :
    operand16 (-32768) 32767 v = some d ↔ -32768 ≤ v ∧ v ≤ 32767 ∧ d.toInt = v := by
  rw [operand16_eq_some_iff]
  refine and_congr_right fun hlo => and_congr_right fun hhi => ?_
  have hself : (BitVec.ofInt 16 v).toInt = v := BitVec.toInt_ofInt_eq_self (by decide) hlo (Int.lt_add_one_of_le hhi)
  rw [← BitVec.toInt_inj, hself, eq_comm]

theorem operandSel_eq_some_iff {v : Int} {w : BitVec 4} :
    operandSel v = some w ↔ 0 ≤ v ∧ v ≤ 15 ∧ (w.toNat : Int) = v := by
  simp only [operandSel, Option.ite_none_right_eq_some, Option.some.injEq, and_assoc]
  exact and_congr_right fun hlo => and_congr_right fun hhi => ofInt_eq_iff_toNat hlo (Int.lt_add_one_of_le hhi)

/-- A pin operand in range fits a 16-bit pattern. -/
theorem pins_range_le {portBits : Nat} (h : portBits ≤ 16) : (2 : Int) ^ portBits - 1 ≤ 65535 :=
  Int.sub_le_sub_right (pow_le_pow_right₀ (by decide) h) 1

/-- The range of R98 for pins is what `wellFormed` asks of EV_PINS. -/
theorem evPins_wellFormed_of_operand {portBits : Nat} (h : portBits ≤ 16) {v : Int} {x : Half}
    (hx : operand16 0 (2 ^ portBits - 1) v = some x) : (Instr.evPins x).wellFormed portBits = true := by
  obtain ⟨-, hhi, rfl⟩ := (operand16_unsigned_iff (pins_range_le h)).mp hx
  exact decide_eq_true (by exact_mod_cast Int.lt_of_le_sub_one hhi)

/-! ## Lines and traces of assembly (R98, R99) -/

section lines
variable {portBits : Nat} {operands : List Int} {ops : List Instr}

/-- A mnemonic that takes one operand is accepted with one that its reader accepts. -/
theorem assembleLine_oneOperand_iff {m : String} (f : Int → Option (List Instr))
    (hone : ∀ v, assembleLine portBits ⟨m, [v]⟩ = f v) (hnil : assembleLine portBits ⟨m, []⟩ = none)
    (hmore : ∀ u v rest, assembleLine portBits ⟨m, u :: v :: rest⟩ = none) :
    assembleLine portBits ⟨m, operands⟩ = some ops ↔ ∃ v, operands = [v] ∧ f v = some ops := by
  rcases operands with _ | ⟨u, _ | ⟨v, rest⟩⟩
  · simp [hnil]
  · simp [hone]
  · simp [hmore]

/-- The lines with one unsigned 16-bit operand: EV_PINS, PINS and PWM_INIT. -/
theorem assembleLine_unsigned_iff {m : String} {hi : Int} (hbound : hi ≤ 65535) {build : Half → List Instr}
    (hone : ∀ v, assembleLine portBits ⟨m, [v]⟩ = (operand16 0 hi v).map build)
    (hnil : assembleLine portBits ⟨m, []⟩ = none)
    (hmore : ∀ u v rest, assembleLine portBits ⟨m, u :: v :: rest⟩ = none) :
    assembleLine portBits ⟨m, operands⟩ = some ops ↔
      ∃ v : Int, operands = [v] ∧ 0 ≤ v ∧ v ≤ hi ∧ ∃ x : Half, (x.toNat : Int) = v ∧ ops = build x := by
  rw [assembleLine_oneOperand_iff _ hone hnil hmore]
  simp only [Option.map_eq_some_iff, operand16_unsigned_iff hbound, and_assoc, exists_and_left, eq_comm (b := ops)]

/-- The lines with a `sel` operand alone: RD_POS and RD_SPEED. -/
theorem assembleLine_sel_iff {m : String} {build : BitVec 4 → List Instr}
    (hone : ∀ v, assembleLine portBits ⟨m, [v]⟩ = (operandSel v).map build)
    (hnil : assembleLine portBits ⟨m, []⟩ = none)
    (hmore : ∀ u v rest, assembleLine portBits ⟨m, u :: v :: rest⟩ = none) :
    assembleLine portBits ⟨m, operands⟩ = some ops ↔
      ∃ v : Int, operands = [v] ∧ 0 ≤ v ∧ v ≤ 15 ∧ ∃ w : BitVec 4, (w.toNat : Int) = v ∧ ops = build w := by
  rw [assembleLine_oneOperand_iff _ hone hnil hmore]
  simp only [Option.map_eq_some_iff, operandSel_eq_some_iff, and_assoc, exists_and_left, eq_comm (b := ops)]

theorem assembleLine_setIe_iff : assembleLine portBits ⟨"SET_IE", operands⟩ = some ops ↔
    operands = [0] ∧ ops = [.setIe false] ∨ operands = [1] ∧ ops = [.setIe true] := by
  rw [assembleLine_oneOperand_iff
    (fun b => if b = 0 then some [.setIe false] else if b = 1 then some [.setIe true] else none)
    (fun _ => rfl) rfl fun _ _ _ => rfl]
  constructor
  · rintro ⟨b, rfl, hb⟩
    split_ifs at hb with h0 h1 <;> cases hb
    · exact .inl ⟨by rw [h0], rfl⟩
    · exact .inr ⟨by rw [h1], rfl⟩
  · rintro (⟨rfl, rfl⟩ | ⟨rfl, rfl⟩) <;> exact ⟨_, rfl, rfl⟩

theorem assembleLine_setDuty_iff : assembleLine portBits ⟨"SET_DUTY", operands⟩ = some ops ↔
    ∃ u v : Int, operands = [u, v] ∧ 0 ≤ u ∧ u ≤ 15 ∧ -32768 ≤ v ∧ v ≤ 32767 ∧
      ∃ (c : BitVec 4) (d : Half), (c.toNat : Int) = u ∧ d.toInt = v ∧ ops = [.setDuty c d] := by
  have htwo : ∀ u v, assembleLine portBits ⟨"SET_DUTY", [u, v]⟩ = (operandSel u).bind fun c =>
      (operand16 (-32768) 32767 v).map fun d => [.setDuty c d] := fun _ _ => rfl
  have hnil : assembleLine portBits ⟨"SET_DUTY", []⟩ = none := rfl
  have hone : ∀ u, assembleLine portBits ⟨"SET_DUTY", [u]⟩ = none := fun _ => rfl
  have hmore : ∀ u v w rest, assembleLine portBits ⟨"SET_DUTY", u :: v :: w :: rest⟩ = none := fun _ _ _ _ => rfl
  rcases operands with _ | ⟨u, _ | ⟨v, _ | ⟨w, rest⟩⟩⟩
  · simp [hnil]
  · simp [hone]
  · simp only [htwo, Option.bind_eq_some_iff, Option.map_eq_some_iff, operandSel_eq_some_iff, operand16_signed_iff]
    constructor
    · rintro ⟨c, ⟨hulo, huhi, hc⟩, d, ⟨hvlo, hvhi, hd⟩, rfl⟩
      exact ⟨u, v, rfl, hulo, huhi, hvlo, hvhi, c, d, hc, hd, rfl⟩
    · rintro ⟨_, _, ⟨⟩, hulo, huhi, hvlo, hvhi, c, d, hc, hd, rfl⟩
      exact ⟨c, ⟨hulo, huhi, hc⟩, d, ⟨hvlo, hvhi, hd⟩, rfl⟩
  · simp [hmore]

/-- The mnemonics of R98 and, after them, the pseudo-operations of R99. -/
def mnemonics : List String :=
  ["EV_TIMER", "EV_PINS", "EV_PWM_CYCLE", "SVC_TICK", "SVC_PORT", "RD_TICK", "RD_POS", "RD_SPEED", "RD_KEY", "SET_DUTY",
    "PWM_INIT", "SET_IE", "RD_STATUS", "RD_EVENTS", "CS_ENTER", "CS_EXIT", "STOP_ALL", "TICK", "PINS"]

/-- An accepted line has a mnemonic of R98 or R99, and makes well-formed operations: only pins have a range to keep. -/
theorem assembleLine_accepted (h : portBits ≤ 16) {l : AsmLine} (hl : assembleLine portBits l = some ops) :
    l.mnemonic ∈ mnemonics ∧ ∀ i ∈ ops, i.wellFormed portBits = true := by
  revert hl
  fun_cases assembleLine portBits l <;> intro hl
  case case2 hm => -- EV_PINS
    obtain ⟨x, hx, rfl⟩ := Option.map_eq_some_iff.mp hl
    simp [hm, mnemonics, evPins_wellFormed_of_operand h hx]
  case case21 hm => -- PINS
    obtain ⟨x, hx, rfl⟩ := Option.map_eq_some_iff.mp hl
    exact ⟨by simp [hm, mnemonics],
      List.forall_mem_cons.mpr ⟨evPins_wellFormed_of_operand h hx, List.forall_mem_singleton.mpr rfl⟩⟩
  case case10 hm => -- SET_DUTY
    obtain ⟨c, -, hl⟩ := Option.bind_eq_some_iff.mp hl
    obtain ⟨d, -, rfl⟩ := Option.map_eq_some_iff.mp hl
    simp [hm, mnemonics, Instr.wellFormed]
  case case7 hm | case8 hm | case11 hm => -- RD_POS, RD_SPEED, PWM_INIT
    obtain ⟨x, -, rfl⟩ := Option.map_eq_some_iff.mp hl
    simp [hm, mnemonics, Instr.wellFormed]
  all_goals cases hl
  all_goals simp [*, mnemonics, csEnter, csExit, stopAll, tickOps, Instr.wellFormed]

theorem assembleLine_unknown (h : portBits ≤ 16) {l : AsmLine} (hm : l.mnemonic ∉ mnemonics) :
    assembleLine portBits l = none :=
  Option.eq_none_iff_forall_ne_some.mpr fun _ hl => hm (assembleLine_accepted h hl).1

end lines

theorem mapM_eq_none_of_mem {α β : Type} {f : α → Option β} {as : List α} {a : α} (ha : a ∈ as) (hf : f a = none) :
    as.mapM f = none := by
  induction as with
  | nil => cases ha
  | cons b bs ih =>
    rw [List.mapM_cons]
    rcases List.mem_cons.mp ha with rfl | hbs
    · rw [hf]; rfl
    · rw [ih hbs]
      cases f b <;> rfl

/-- R98: an assembly error in one line is one of the trace, so no word is produced. -/
theorem assemble_eq_none {portBits : Nat} {lines : List (List Char)} {line : List Char} {l : AsmLine}
    (hmem : line ∈ lines) (hparse : parseLine line = some (some l)) (herr : assembleLine portBits l = none) :
    assemble portBits lines = none := by
  unfold assemble
  rw [mapM_eq_none_of_mem hmem, Option.map_none]
  simp only [hparse, Option.bind_some, herr, Option.map_none]

/-- Settles O8, mnemonic by mnemonic; a line without operands is read off the model. -/
theorem assembledOperationsAreWellFormed : Obligations.AssembledOperationsAreWellFormed := by
  unfold Obligations.AssembledOperationsAreWellFormed
  intro portBits h
  refine ⟨?noOperands, ?evPins, ?pins, ?rdPos, ?rdSpeed, fun _ _ => assembleLine_setDuty_iff, ?pwmInit,
    fun _ _ => assembleLine_setIe_iff, fun _ _ hm => assembleLine_unknown h hm,
    fun _ _ _ hmem hparse herr => assemble_eq_none hmem hparse herr, fun _ _ hl => (assembleLine_accepted h hl).2⟩
  case noOperands =>
    simp only [List.forall_mem_cons]
    refine ⟨?_, ?_, ?_, ?_, ?_, ?_, ?_, ?_, ?_, ?_, ?_, ?_, nofun⟩ <;> rintro (_ | ⟨v, rest⟩) <;> rfl
  case evPins | pins =>
    exact fun _ _ => assembleLine_unsigned_iff (pins_range_le h) (fun _ => rfl) rfl fun _ _ _ => rfl
  case pwmInit => exact fun _ _ => assembleLine_unsigned_iff le_rfl (fun _ => rfl) rfl fun _ _ _ => rfl
  case rdPos | rdSpeed => exact fun _ _ => assembleLine_sel_iff (fun _ => rfl) rfl fun _ _ _ => rfl

end Sys2Proof.Machine
end

section
/-! The tick unit (40_tick.md): the words of its operations, what each of them does to the whole state, the counting law of
the tick service, and the expiries lost in a critical section. -/

/-! ## The words of an operation (R92, R95) -/

namespace Sys2Proof.Laws

theorem encodedBy_of_row {name : String} {fixedBits mask : Word} {build : Word → Instr}
    (hr : ⟨name, fixedBits, mask, build⟩ ∈ opTable tablePortBits) : Machine.EncodedBy fixedBits mask build :=
  fun _ hx => decode_of_row (by decide) hr hx

end Sys2Proof.Laws

namespace Sys2Proof.Machine

/-! ## EV_TIMER, RD_TICK and RD_EVENTS (R120, R123, R124) -/

/-- Settles O15: the condition of the loss is that of R120. -/
theorem timerExpiryPendsAndRecordsALoss : Obligations.TimerExpiryPendsAndRecordsALoss := by
  unfold Obligations.TimerExpiryPendsAndRecordsALoss
  exact ⟨rfl, Laws.encodedBy_of_row (name := "EV_TIMER") (by simp [opTable]),
    fun s hfault => exec_evTimer_next.mpr ⟨hfault, rfl⟩⟩

/-- Settles O20: a tick that fits 16 bits survives `zext_16`. -/
theorem readTickReturnsTheTick : Obligations.ReadTickReturnsTheTick := by
  unfold Obligations.ReadTickReturnsTheTick
  exact ⟨rfl, Laws.encodedBy_of_row (name := "RD_TICK") (by simp [opTable]),
    fun s hfault htick => ⟨BitVec.ofNat 16 s.tick, Nat.mod_eq_of_lt htick, exec_rdTick_next.mpr ⟨hfault, rfl⟩⟩⟩

/-- The event word, read as the sum of its three flags' weights. -/
theorem toNat_eventWord (s : State) :
    (eventWord s).toNat = s.ev50ms.toNat + 2 * s.ev100ms.toNat + 4 * s.ev1s.toNat := by
  have weights : ∀ b0 b1 b2 : Bool,
      (0#13 ++ BitVec.ofBool b2 ++ BitVec.ofBool b1 ++ BitVec.ofBool b0).toNat = b0.toNat + 2 * b1.toNat + 4 * b2.toNat := by
    decide
  exact weights s.ev50ms s.ev100ms s.ev1s

/-- Settles O28: the word is read before the flags are cleared. -/
theorem readEventsReportsAndClears : Obligations.ReadEventsReportsAndClears := by
  unfold Obligations.ReadEventsReportsAndClears
  exact ⟨rfl, Laws.encodedBy_of_row (name := "RD_EVENTS") (by simp [opTable]),
    fun s hfault => ⟨eventWord s, toNat_eventWord s, exec_rdEvents_next.mpr ⟨hfault, rfl⟩⟩⟩

/-! ## SVC_TICK (R121, R122, R141, R200) -/

section tickEffect
variable (s : State)

theorem debounceTick_countdown :
    (debounceTick s).countdown = if s.dbState = .bouncing then s.countdown - 1#8 else s.countdown := by
  rcases debounceTick_cases s with ⟨hdb, heq⟩ | ⟨hdb, -, heq⟩ | ⟨hdb, hone, heq⟩ <;> simp [*]

/-- A tick promotes exactly at the end of a countdown; the three registers that a promotion writes keep their values at any
other tick. -/
theorem debounceTick_promotion :
    (debounceTick s).stableLevel = (if s.dbState = .bouncing ∧ s.countdown = 1#8 then s.rawLevel else s.stableLevel) ∧
    (debounceTick s).pressEvent = (s.pressEvent || decide ((s.dbState = .bouncing ∧ s.countdown = 1#8) ∧
      s.rawLevel = s.cfg.keyActiveLevel ∧ s.stableLevel ≠ s.cfg.keyActiveLevel)) ∧
    (debounceTick s).dbState = (if s.dbState = .bouncing ∧ s.countdown = 1#8 then
      (if s.rawLevel = s.cfg.keyActiveLevel then .pressed else .idle) else s.dbState) := by
  rcases debounceTick_cases s with ⟨hdb, heq⟩ | ⟨hdb, hone, heq⟩ | ⟨hdb, hone, heq⟩
  · simp [heq, hdb]
  · simp [heq, hdb, hone]
  · simp [heq, hdb, hone, pressEdge, bne, Bool.beq_eq_decide_eq]

/-- A sample is one truncating division of the exact product, saturated to 16 bits; the two bounds may be applied in either
order (R200, R201). -/
theorem speedOf_speedDelta (w : Ident) :
    speedOf s.cfg (speedDelta w s) = BitVec.ofInt 16 (max (-32768) (min 32767
      (Int.tdiv ((s.position.get w - s.prevPosition.get w).toInt * (s.cfg.wheelCircMm * 1000))
        (s.cfg.ticksPerRev * s.cfg.samplePeriodMs)))) := by
  have hsat : ∀ v : Int, sat16 v = max (-32768) (min 32767 v) := fun v => by unfold sat16 clamp; omega
  rw [speedOf, speedDelta_eq, hsat]
  rfl

end tickEffect

/-- Settles O18, field by field. -/
theorem tickServiceEffect : Obligations.TickServiceEffect := by
  unfold Obligations.TickServiceEffect
  refine ⟨rfl, Laws.encodedBy_of_row (name := "SVC_TICK") (by simp [opTable]), ?_⟩
  intro s hfault hpend hie k counting promoting sampling sample
  obtain ⟨hdb, hstable, hcount, hpress⟩ := tickService_debounce s
  obtain ⟨hstable', hpress', hdb'⟩ := debounceTick_promotion s
  refine exec_svcTick_next.mpr ⟨hfault, hpend, hie, ?_⟩
  apply State.ext
  case tick => exact (tickService_tick s).symm
  case ev50ms => exact (tickService_ev50ms s).symm
  case ev100ms => exact (tickService_ev100ms s).symm
  case ev1s => exact (tickService_ev1s s).symm
  case countdown => exact (hcount.trans (debounceTick_countdown s)).symm
  case stableLevel => exact (hstable.trans hstable').symm
  case pressEvent => exact (hpress.trans hpress').symm
  case dbState => exact (hdb.trans hdb').symm
  case speed =>
    rw [tickService_speed, speedOf_speedDelta, speedOf_speedDelta]
  case prevPosition => exact (tickService_prevPosition s).symm
  all_goals simp

/-! ## The counting law (R126) -/

theorem tick_of_exec {i : Instr} {s t : State} (h : exec i s = .next t) :
    t.tick = if i = .svcTick then (s.tick + 1) % s.cfg.tickModulus else s.tick := by
  split_ifs with hi
  · subst hi
    obtain ⟨-, -, -, rfl⟩ := exec_svcTick_next.mp h
    exact tickService_tick s
  · exact (exec_writtenAsListed h).tick.resolve_right hi

/-- By induction on the run: each SVC_TICK adds 1, and the modulus may be taken at the end. -/
theorem tick_of_execAll {ops : List Instr} {s t : State} (hlt : s.tick < s.cfg.tickModulus)
    (h : execAll ops s = .next t) : t.tick = (s.tick + ops.count .svcTick) % s.cfg.tickModulus := by
  induction ops generalizing s with
  | nil =>
    rw [execAll_nil.mp h]
    exact (Nat.mod_eq_of_lt hlt).symm
  | cons i is ih =>
    obtain ⟨u, hu, hrest⟩ := execAll_cons.mp h
    have hcfg : u.cfg = s.cfg := (exec_keeps_cfg_trace hu).1
    have htick := tick_of_exec hu
    by_cases hi : i = .svcTick
    · rw [if_pos hi] at htick
      have hult : u.tick < u.cfg.tickModulus := by
        rw [hcfg, htick]
        exact Nat.mod_lt _ (Nat.zero_lt_of_lt hlt)
      rw [ih hult hrest, hcfg, htick, hi, List.count_cons_self, Nat.mod_add_mod, Nat.add_right_comm, Nat.add_assoc]
    · rw [if_neg hi] at htick
      rw [ih (by rw [hcfg, htick]; exact hlt) hrest, hcfg, htick, List.count_cons_of_ne hi]

theorem isEventTick_tickService (d : Nat) (s : State) :
    isEventTick d .svcTick s (tickService s) = ((s.tick + 1) % s.cfg.tickModulus % d == 0) := by
  simp [isEventTick]

/-- The multiples of `d` among the `n + 1` numbers after `t`: the first of them, and those among the other `n`. -/
theorem multiples_succ (d t n : Nat) :
    (if (t + 1) % d = 0 then 1 else 0) + ((t + 1) % d + n) / d = (t % d + (n + 1)) / d := by
  have hsplit : ∀ a m : Nat, (a + m) / d = a / d + (a % d + m) / d := fun a m => by
    rcases Nat.eq_zero_or_pos d with rfl | hd
    · simp
    · conv_lhs => rw [← Nat.div_add_mod a d, Nat.add_assoc, Nat.mul_add_div hd]
  have hsucc := Nat.succ_div (a := t) (b := d)
  have hfirst := hsplit (t + 1) n
  have hall := hsplit t (n + 1)
  rw [Nat.add_right_comm, Nat.add_assoc] at hfirst
  simp only [Nat.dvd_iff_mod_eq_zero] at hsucc
  omega

/-- By induction on the run. As `d` divides the modulus, the wrap of the tick does not disturb its phase, `tick % d`. -/
theorem countSteps_isEventTick {d : Nat} {ops : List Instr} {s t : State} (hd : d ∣ s.cfg.tickModulus)
    (h : execAll ops s = .next t) :
    countSteps (isEventTick d) ops s = (s.tick % d + ops.count .svcTick) / d := by
  induction ops generalizing s with
  | nil => simp [countSteps]
  | cons i is ih =>
    obtain ⟨u, hu, hrest⟩ := execAll_cons.mp h
    have hcfg : u.cfg = s.cfg := (exec_keeps_cfg_trace hu).1
    have htick := tick_of_exec hu
    rw [countSteps_cons hu, ih (by rw [hcfg]; exact hd) hrest]
    by_cases hi : i = .svcTick
    · rw [if_pos hi] at htick
      have hphase : u.tick % d = (s.tick + 1) % d := by rw [htick, Nat.mod_mod_of_dvd _ hd]
      rw [hi, List.count_cons_self, ← multiples_succ]
      simp [isEventTick, hphase]
    · rw [if_neg hi] at htick
      rw [List.count_cons_of_ne hi, htick]
      simp [isEventTick, hi]

/-- Settles O40: the tick and the number of event services by induction on the run, the flags by one service. -/
theorem countingLaw : Obligations.CountingLaw := by
  unfold Obligations.CountingLaw
  refine ⟨fun _ _ _ _ hlt h => tick_of_execAll hlt h, ?flags, ?number⟩
  case flags =>
    intro s t h
    obtain ⟨-, -, -, rfl⟩ := exec_svcTick_next.mp h
    simp only [isEventTick_tickService, beq_iff_eq, beq_eq_false_iff_ne]
    refine ⟨tickService_ev50ms s, tickService_ev100ms s, tickService_ev1s s, ?_, ?_⟩
    · intro hdue
      rw [tickService_prevPosition, if_pos hdue]
    · intro hdue
      rw [tickService_prevPosition, tickService_speed, if_neg hdue, if_neg hdue]
      exact ⟨rfl, rfl⟩
  case number =>
    intro ops s t hadm hzero h d hd
    obtain ⟨⟨-, -, -, -, hd50, hd100, hd1s⟩, -⟩ := s.cfg.admissible_iff_everyBullet.mp hadm
    have hdvd : d ∣ s.cfg.tickModulus := by obtain rfl | rfl | rfl := hd <;> assumption
    rw [countSteps_isEventTick hdvd h, hzero, Nat.zero_mod, Nat.zero_add]

/-! ## Expiries lost while masked (R120, R281) -/

theorem exec_keeps_tmrPend {i : Instr} {s t : State} (hi : i ≠ .svcTick) (h : exec i s = .next t)
    (hset : s.tmrPend = true) : t.tmrPend = true := by
  rcases (exec_writtenAsListed h).tmrPend with hkept | rfl | rfl
  · rw [hkept, hset]
  · obtain ⟨-, rfl⟩ := exec_evTimer_next.mp h
    rfl
  · exact absurd rfl hi

/-- A list that holds `a` twice has a second `a` somewhere after its first one. -/
theorem exists_two_of_count {α : Type} [DecidableEq α] {a : α} {l : List α} (h : 2 ≤ l.count a) :
    ∃ before between after, l = before ++ (a :: between ++ a :: after) := by
  obtain ⟨before, rest, rfl, hnot⟩ := List.eq_append_cons_of_mem (List.count_pos_iff.mp (Nat.zero_lt_of_lt h))
  rw [List.count_append, List.count_cons_self, List.count_eq_zero_of_not_mem hnot] at h
  obtain ⟨between, after, rfl⟩ := List.append_of_mem (List.count_pos_iff.mp (show 0 < rest.count a by omega))
  exact ⟨before, between, after, rfl⟩

section expiries
variable {ops : List Instr} {s t : State}

/-- The expiry stays pending until a tick service takes it. -/
theorem tmrPend_after_expiry (hops : Instr.svcTick ∉ ops) (h : execAll (.evTimer :: ops) s = .next t) :
    t.tmrPend = true := by
  obtain ⟨u, hu, hrest⟩ := execAll_cons.mp h
  have hset : u.tmrPend = true := by
    obtain ⟨-, rfl⟩ := exec_evTimer_next.mp hu
    rfl
  exact execAll_keeps_of_mem (P := fun v => v.tmrPend = true)
    (fun _ hmem _ _ => exec_keeps_tmrPend (ne_of_mem_of_not_mem hmem hops)) hrest hset

theorem execAll_keeps_tickArmed (h : execAll ops s = .next t) (harmed : s.tickArmed = true) : t.tickArmed = true :=
  execAll_keeps (P := fun v => v.tickArmed = true) (fun _ _ _ => exec_keeps_tickArmed) h harmed

/-- An expiry that finds one pending is lost, and the record of the loss is sticky. -/
theorem tmrOverrun_after_expiry (hpend : s.tmrPend = true) (harmed : s.tickArmed = true)
    (h : execAll (.evTimer :: ops) s = .next t) : t.tmrOverrun = true := by
  obtain ⟨u, hu, hrest⟩ := execAll_cons.mp h
  have hset : u.tmrOverrun = true := by
    obtain ⟨-, rfl⟩ := exec_evTimer_next.mp hu
    simp [expiryLost, hpend, harmed]
  exact execAll_keeps (P := fun v => v.tmrOverrun = true) (fun _ _ _ => exec_keeps_tmrOverrun) hrest hset

/-- The second of two expiries without a service between them finds the first one pending. -/
theorem overrun_of_two_expiries (harmed : s.tickArmed = true) (hops : Instr.svcTick ∉ ops)
    (h : execAll ops s = .next t) (hcount : 2 ≤ ops.count .evTimer) : t.tmrOverrun = true ∧ t.tmrPend = true := by
  obtain ⟨before, between, after, rfl⟩ := exists_two_of_count hcount
  simp only [List.mem_append, List.mem_cons, not_or] at hops
  obtain ⟨-, ⟨-, hbetween⟩, -, hafter⟩ := hops
  obtain ⟨u, hbefore, hrest⟩ := execAll_append.mp h
  obtain ⟨v, hfirst, hsecond⟩ := execAll_append.mp hrest
  have harmedv : v.tickArmed = true := execAll_keeps_tickArmed hfirst (execAll_keeps_tickArmed hbefore harmed)
  exact ⟨tmrOverrun_after_expiry (tmrPend_after_expiry hbetween hfirst) harmedv hsecond,
    tmrPend_after_expiry hafter hsecond⟩

end expiries

/-- Settles O41: no tick service can step while `ie` is 0. -/
theorem maskedTicksAreLostAndRecorded : Obligations.MaskedTicksAreLostAndRecorded := by
  unfold Obligations.MaskedTicksAreLostAndRecorded
  intro ops s t hie harmed hops h hcount
  have hnot : Instr.svcTick ∉ ops := not_mem_of_masked (fun _ _ => svcTick_not_masked) hie hops h
  obtain ⟨hover, hpend⟩ := overrun_of_two_expiries harmed hnot h hcount
  exact ⟨hover, hpend, (execAll_frozenSince hie hops h).tick⟩

end Sys2Proof.Machine
end

section
/-! The debounce unit (41_debounce.md): what RD_KEY and SVC_PORT do to the whole state, the two orders of a tick and a key
change, the settling law of one key change and the edge law of a run. -/

namespace Sys2Proof.Machine

/-! ## RD_KEY (R143) -/

theorem zext1_eq_ite (b : Bool) : zext1 b = if b then 1#16 else 0#16 := by cases b <;> rfl

/-- Settles O23: the flag is read before it is cleared. -/
theorem readKeyReportsAndClears : Obligations.ReadKeyReportsAndClears := by
  unfold Obligations.ReadKeyReportsAndClears
  refine ⟨rfl, Laws.encodedBy_of_row (name := "RD_KEY") (by simp [opTable]), fun s hfault => ?_⟩
  rw [← zext1_eq_ite]
  exact exec_rdKey_next.mpr ⟨hfault, rfl⟩

/-! ## SVC_PORT (R142, R161 to R164) -/

/-- The wheel state is the number with A as its bit 1 and B as its bit 0 (R162). -/
theorem wheelState_eq_ofNat (c : Config) (w : Ident) (snap : Half) :
    wheelState c w snap =
      BitVec.ofNat 2 ((snap.getLsbD (pinA c w)).toNat * 2 + (snap.getLsbD (pinB c w)).toNat) := by
  have pair : ∀ a b : Bool, BitVec.ofBool a ++ BitVec.ofBool b = BitVec.ofNat 2 (a.toNat * 2 + b.toNat) := by decide
  exact pair _ _

/-- The entries of the decode table by the cycle of R164: one more along it, one less against it. -/
theorem ofInt_qtab (prev cur : BitVec 2) :
    BitVec.ofInt 16 (qtab prev cur) =
      (if cur = cycleNext prev then 1#16 else 0#16) - (if prev = cycleNext cur then 1#16 else 0#16) := by
  revert prev cur
  decide

theorem portService_position_get_eq_add (snap : Half) (s : State) (w : Ident) :
    (portService snap s).position.get w =
      s.position.get w + BitVec.ofInt 16 (qtab (s.prevState.get w) (wheelState s.cfg w snap)) := by
  rw [portService_position_get, wrap16_sext16_add]

theorem debounceRaw_countdown (k : Bool) (s : State) :
    (debounceRaw k s).countdown = if k = s.rawLevel then s.countdown else BitVec.ofNat 8 s.cfg.debounceTicks := by
  rcases debounceRaw_cases k s with ⟨hsame, heq⟩ | ⟨hchange, heq⟩
  · rw [heq, if_pos hsame]
  · rw [heq, if_neg hchange]

theorem debounceRaw_dbState (k : Bool) (s : State) :
    (debounceRaw k s).dbState = if k = s.rawLevel then s.dbState else .bouncing := by
  rcases debounceRaw_cases k s with ⟨hsame, heq⟩ | ⟨hchange, heq⟩
  · rw [heq, if_pos hsame]
  · rw [heq, if_neg hchange]

/-- Settles O19, field by field; the two-entry registers wheel by wheel. -/
theorem portServiceEffect : Obligations.PortServiceEffect := by
  unfold Obligations.PortServiceEffect
  refine ⟨rfl, Laws.encodedBy_of_row (name := "SVC_PORT") (by simp [opTable]), ?_⟩
  intro s hfault hpend hie cur count key
  obtain ⟨hdb, hcount⟩ := portService_debounce s.portPins s
  have hcur : ∀ w, wheelState s.cfg w s.portPins = cur w := fun w => wheelState_eq_ofNat s.cfg w s.portPins
  have hposition : ∀ w, (portService s.portPins s).position.get w = s.position.get w + count w := fun w => by
    rw [portService_position_get_eq_add, ofInt_qtab, hcur]
  have hprev : ∀ w, (portService s.portPins s).prevState.get w = cur w := fun w => by
    rw [portService_prevState_get, hcur]
  refine exec_svcPort_next.mpr ⟨hfault, hpend, hie, ?_⟩
  apply State.ext
  case position => exact Two.ext_get fun | .one => (hposition .one).symm | .two => (hposition .two).symm
  case prevState => exact Two.ext_get fun | .one => (hprev .one).symm | .two => (hprev .two).symm
  case rawLevel => exact (portService_rawLevel s.portPins s).symm
  case countdown => exact (hcount.trans (debounceRaw_countdown key s)).symm
  case dbState => exact (hdb.trans (debounceRaw_dbState key s)).symm
  all_goals simp

/-! ## A tick and a key change (R141, R142, R245) -/

/-- A tick while the key is seen inactive confirms no press (R141). -/
theorem tickService_pressEvent_of_inactive {s : State} (hraw : s.rawLevel ≠ s.cfg.keyActiveLevel) :
    (tickService s).pressEvent = s.pressEvent := by
  obtain ⟨-, -, -, hpress⟩ := tickService_debounce s
  obtain ⟨-, hpress', -⟩ := debounceTick_promotion s
  simp [hpress, hpress', hraw]

/-- A tick while the stable level is the one seen leaves it, whether it promotes or not (R141). -/
theorem tickService_stableLevel_of_eq {s : State} (hraw : s.rawLevel = s.stableLevel) :
    (tickService s).stableLevel = s.stableLevel := by
  obtain ⟨-, hstable, -, -⟩ := tickService_debounce s
  obtain ⟨hstable', -, -⟩ := debounceTick_promotion s
  rw [hstable, hstable', hraw, ite_self]

/-- The last tick of a press records the edge (R141). -/
theorem tickService_confirms_press {s : State} (hdb : s.dbState = .bouncing) (hone : s.countdown = 1#8)
    (hraw : s.rawLevel = s.cfg.keyActiveLevel) (hstable : s.stableLevel ≠ s.cfg.keyActiveLevel) :
    (tickService s).pressEvent = true ∧ (tickService s).stableLevel = s.cfg.keyActiveLevel := by
  obtain ⟨-, hs, -, hp⟩ := tickService_debounce s
  obtain ⟨hs', hp', -⟩ := debounceTick_promotion s
  simp [hs, hs', hp, hp', hdb, hone, hraw, hstable]

/-- Settles O58: the port first shows the tick an inactive key, which is the stable level too. -/
theorem serviceOrderMattersAtAKeyChange : Obligations.ServiceOrderMattersAtAKeyChange := by
  unfold Obligations.ServiceOrderMattersAtAKeyChange
  intro s t u hdb hone hraw hstable hpress _ hkey htick hport
  simp only [execAll_cons, execAll_nil, exec_svcTick_next, exec_svcPort_next] at htick hport
  obtain ⟨_, ⟨-, -, -, rfl⟩, _, ⟨-, -, -, rfl⟩, rfl⟩ := htick
  obtain ⟨_, ⟨-, -, -, rfl⟩, _, ⟨-, -, -, rfl⟩, rfl⟩ := hport
  obtain ⟨hedge, hlevel⟩ := tickService_confirms_press hdb hone hraw hstable
  have hinactive : keyBit s.cfg s.portPins ≠ s.cfg.keyActiveLevel := hraw ▸ hkey
  have hseen : keyBit s.cfg s.portPins = s.stableLevel :=
    (Bool.eq_not_of_ne hinactive).trans (Bool.eq_not_of_ne hstable).symm
  refine ⟨?_, ?_, ?_, ?_⟩
  · rw [portService_pressEvent, hedge]
  · rw [portService_stableLevel, hlevel]
  · rw [tickService_pressEvent_of_inactive (by simpa using hinactive), portService_pressEvent, hpress]
  · rw [tickService_stableLevel_of_eq (by simpa using hseen), portService_stableLevel]

/-! ## The settling law (R144) -/

/-- `t` has the debounce machine of `s`: the registers that the settling law reads, under the same configuration. -/
structure SameDebounce (s t : State) : Prop where
  cfg : t.cfg = s.cfg
  dbState : t.dbState = s.dbState
  rawLevel : t.rawLevel = s.rawLevel
  stableLevel : t.stableLevel = s.stableLevel
  countdown : t.countdown = s.countdown

section debounceSteps
variable {i : Instr} {s t : State}

theorem exec_svcTick_debounce (h : exec .svcTick s = .next t) : SameDebounce (debounceTick s) t := by
  obtain ⟨-, -, -, rfl⟩ := exec_svcTick_next.mp h
  obtain ⟨hdb, hstable, hcount, -⟩ := tickService_debounce s
  exact ⟨by simp, hdb, by simp, hstable, hcount⟩

/-- Beside a tick only a change of `raw_level` touches the debounce machine (R142). -/
theorem exec_keeps_debounce (hi : i ≠ .svcTick) (h : exec i s = .next t) (hraw : t.rawLevel = s.rawLevel) :
    SameDebounce s t := by
  by_cases hPort : i = .svcPort
  · subst hPort
    obtain ⟨-, -, -, rfl⟩ := exec_svcPort_next.mp h
    obtain ⟨hdb, hcount⟩ := portService_debounce s.portPins s
    have hsame : keyBit s.cfg s.portPins = s.rawLevel := (portService_rawLevel s.portPins s).symm.trans hraw
    rw [debounceRaw_dbState, if_pos hsame] at hdb
    rw [debounceRaw_countdown, if_pos hsame] at hcount
    exact ⟨by simp, hdb, hraw, by simp, hcount⟩
  · have w := exec_writtenAsListed h
    have notService : ¬ (i = .svcTick ∨ i = .svcPort) := not_or.mpr ⟨hi, hPort⟩
    exact ⟨(exec_keeps_cfg_trace h).1, w.dbState.resolve_right notService, hraw, w.stableLevel.resolve_right hi,
      w.countdown.resolve_right notService⟩

end debounceSteps

/-- The debounce machine `k` ticks after `raw_level` became `v`, with the stable level `old` before: it counts the
`DEBOUNCE_TICKS` down, or has settled on `v`. -/
inductive SettlingAfter (v old : Bool) (k : Nat) (u : State) : Prop
  | counting (before : k < u.cfg.debounceTicks) (raw : u.rawLevel = v) (stable : u.stableLevel = old)
      (db : u.dbState = .bouncing) (count : u.countdown.toNat = u.cfg.debounceTicks - k)
  | settled (after : u.cfg.debounceTicks ≤ k) (raw : u.rawLevel = v) (stable : u.stableLevel = v)
      (db : u.dbState = if v = u.cfg.keyActiveLevel then .pressed else .idle)

section settling
variable {v old : Bool} {k : Nat} {i : Instr} {s t : State}

theorem SettlingAfter.rawLevel (h : SettlingAfter v old k s) : s.rawLevel = v := by
  cases h <;> assumption

theorem SettlingAfter.congr (h : SettlingAfter v old k s) (e : SameDebounce s t) : SettlingAfter v old k t := by
  cases h with
  | counting before raw stable db count =>
    refine .counting ?_ (e.rawLevel.trans raw) (e.stableLevel.trans stable) (e.dbState.trans db) ?_
    · rw [e.cfg]; exact before
    · rw [e.countdown, e.cfg]; exact count
  | settled after raw stable db =>
    refine .settled ?_ (e.rawLevel.trans raw) (e.stableLevel.trans stable) ?_
    · rw [e.cfg]; exact after
    · rw [e.dbState, e.cfg]; exact db

/-- A tick outside `Bouncing` changes nothing (R141). -/
theorem debounceTick_of_not_bouncing (h : s.dbState ≠ .bouncing) : debounceTick s = s := if_neg h

/-- A tick counts down, and promotes at the last count; nothing happens once the machine has settled (R141). -/
theorem SettlingAfter.tick (h : SettlingAfter v old k s) : SettlingAfter v old (k + 1) (debounceTick s) := by
  cases h with
  | counting before raw stable db count =>
    obtain ⟨hstable, -, hdb⟩ := debounceTick_promotion s
    by_cases hlast : s.countdown = 1#8
    · have hN : s.cfg.debounceTicks - k = 1 := by rw [← count, hlast]; rfl
      rw [if_pos ⟨db, hlast⟩, raw] at hstable hdb
      exact .settled (by rw [debounceTick_cfg]; omega) (by simp [raw]) hstable (by rw [hdb, debounceTick_cfg])
    · have hne : s.countdown.toNat ≠ 1 := fun h1 => hlast (BitVec.eq_of_toNat_eq h1)
      have hle : 1#8 ≤ s.countdown := BitVec.le_def.mpr (show 1 ≤ s.countdown.toNat by omega)
      have hsub : (s.countdown - 1#8).toNat = s.countdown.toNat - 1 := BitVec.toNat_sub_of_le hle
      rw [if_neg fun ⟨_, hp⟩ => hlast hp] at hstable hdb
      refine .counting (by rw [debounceTick_cfg]; omega) (by simp [raw]) (hstable.trans stable) (hdb.trans db) ?_
      rw [debounceTick_countdown, if_pos db, debounceTick_cfg]
      omega
  | settled after raw stable db =>
    have hdb : s.dbState ≠ .bouncing := by rw [db]; split_ifs <;> simp
    rw [debounceTick_of_not_bouncing hdb]
    exact .settled (Nat.le_succ_of_le after) raw stable db

/-- The change of `raw_level` starts a countdown of `DEBOUNCE_TICKS`, which fits its 8 bits (R9, R142). -/
theorem SettlingAfter.start (hadm : s.cfg.admissible = true) (h : exec .svcPort s = .next t)
    (hchange : s.rawLevel ≠ t.rawLevel) : SettlingAfter t.rawLevel t.stableLevel 0 t := by
  obtain ⟨-, -, -, rfl⟩ := exec_svcPort_next.mp h
  obtain ⟨-, -, ⟨hlow, hhigh⟩, -⟩ := s.cfg.admissible_iff_everyBullet.mp hadm
  obtain ⟨hdb, hcount⟩ := portService_debounce s.portPins s
  rw [portService_rawLevel] at hchange
  rw [debounceRaw_dbState, if_neg hchange.symm] at hdb
  rw [debounceRaw_countdown, if_neg hchange.symm] at hcount
  refine .counting (by rw [portService_cfg]; exact hlow) rfl rfl hdb ?_
  rw [hcount, portService_cfg]
  exact Nat.mod_eq_of_lt (Nat.lt_succ_of_le hhigh)

/-- `P` holds where a run starts, if it holds along the run. -/
theorem along_head {P : State → Prop} {ops : List Instr} (h : Along P ops s) : P s := by
  cases ops with
  | nil => exact h
  | cons i is => exact h.1

/-- By induction on the run: its ticks are counted, and no other operation moves the machine. -/
theorem SettlingAfter.run {ops : List Instr} (hstart : SettlingAfter v old k s) (h : execAll ops s = .next t)
    (halong : Along (fun u => u.rawLevel = v) ops s) : SettlingAfter v old (k + ops.count .svcTick) t := by
  induction ops generalizing s k with
  | nil => rw [execAll_nil.mp h]; exact hstart
  | cons i is ih =>
    obtain ⟨u, hu, hrest⟩ := execAll_cons.mp h
    obtain ⟨-, hafter⟩ := (along_cons hu).mp halong
    by_cases hi : i = .svcTick
    · subst hi
      rw [List.count_cons_self, Nat.add_comm (is.count _), ← Nat.add_assoc]
      exact ih (hstart.tick.congr (exec_svcTick_debounce hu)) hrest hafter
    · rw [List.count_cons_of_ne hi]
      have hraw : u.rawLevel = s.rawLevel := (along_head hafter).trans hstart.rawLevel.symm
      exact ih (hstart.congr (exec_keeps_debounce hi hu hraw)) hrest hafter

end settling

theorem cfg_of_execAll {ops : List Instr} {s t : State} (h : execAll ops s = .next t) : t.cfg = s.cfg :=
  execAll_keeps (P := fun u => u.cfg = s.cfg) (fun _ _ _ hstep hu => (exec_keeps_cfg_trace hstep).1.trans hu) h rfl

/-- Settles O42: the number of ticks decides which of the two phases the run has reached. -/
theorem settlingLaw : Obligations.SettlingLaw := by
  unfold Obligations.SettlingLaw
  rintro s₀ s t ops _ hadm hport hchange rfl h halong
  have hend := (SettlingAfter.start hadm hport hchange).run h halong
  rw [Nat.zero_add] at hend
  have hcfg := cfg_of_execAll h
  cases hend with
  | counting before _ stable db count =>
    rw [hcfg] at before count
    exact ⟨fun _ => ⟨stable, db, count⟩, fun hle => absurd before hle.not_gt⟩
  | settled after _ stable db =>
    rw [hcfg] at after db
    exact ⟨fun hlt => absurd after hlt.not_ge, fun _ => ⟨stable, db⟩⟩

/-! ## The edge law (R143, R145) -/

section edges
variable {i : Instr} {s t : State}

/-- Only the promotion of a press sets `press_event` (R141). -/
theorem exec_sets_pressEvent (h : exec i s = .next t) (hclear : s.pressEvent = false) (hset : t.pressEvent = true) :
    i = .svcTick ∧ s.stableLevel ≠ s.cfg.keyActiveLevel ∧ t.stableLevel = s.cfg.keyActiveLevel := by
  obtain hkept | rfl | rfl := (exec_writtenAsListed h).pressEvent
  · rw [hkept, hclear] at hset
    cases hset
  · obtain ⟨-, -, -, rfl⟩ := exec_svcTick_next.mp h
    obtain ⟨-, hstable, -, hpress⟩ := tickService_debounce s
    obtain ⟨hstable', hpress', -⟩ := debounceTick_promotion s
    rw [hpress, hpress', hclear, Bool.false_or, decide_eq_true_iff] at hset
    obtain ⟨hpromoting, hraw, hinactive⟩ := hset
    exact ⟨rfl, hinactive, by rw [hstable, hstable', if_pos hpromoting, hraw]⟩
  · obtain ⟨-, rfl⟩ := exec_rdKey_next.mp h
    cases hset

theorem isPressEdge_of_sets_pressEvent (h : exec i s = .next t) (hclear : s.pressEvent = false)
    (hset : t.pressEvent = true) : isPressEdge i s t = true := by
  obtain ⟨-, hbefore, hafter⟩ := exec_sets_pressEvent h hclear hset
  have hcfg : t.cfg = s.cfg := (exec_keeps_cfg_trace h).1
  simp [isPressEdge, hbefore, hafter, hcfg]

/-- RD_KEY returns 1 exactly where an edge is unread (R143). -/
theorem isKeyReport_rdKey (h : exec .rdKey s = .next t) : isKeyReport .rdKey s t = s.pressEvent := by
  obtain ⟨-, rfl⟩ := exec_rdKey_next.mp h
  cases hpress : s.pressEvent <;> simp [isKeyReport, zext1]

theorem rdKey_clears_pressEvent (h : exec .rdKey s = .next t) : t.pressEvent = false := by
  obtain ⟨-, rfl⟩ := exec_rdKey_next.mp h
  rfl

/-- A report uses up the unread edge, and a new one needs a confirmed press. -/
theorem exec_report_le_edge (h : exec i s = .next t) :
    (isKeyReport i s t).toNat + t.pressEvent.toNat ≤ (isPressEdge i s t).toNat + s.pressEvent.toNat := by
  by_cases hi : i = .rdKey
  · subst hi
    rw [isKeyReport_rdKey h, rdKey_clears_pressEvent h]
    exact Nat.le_add_left _ _
  · have hreport : isKeyReport i s t = false := by simp [isKeyReport, hi]
    rw [hreport, Bool.toNat_false, Nat.zero_add]
    cases hset : t.pressEvent with
    | false => exact Nat.zero_le _
    | true =>
      cases hclear : s.pressEvent with
      | false => rw [isPressEdge_of_sets_pressEvent h hclear hset]; exact le_rfl
      | true => exact Nat.le_add_left _ _

/-- The stable level is the active one. -/
def keyActive (s : State) : Bool := s.stableLevel == s.cfg.keyActiveLevel

theorem isPressEdge_eq (i : Instr) (s t : State) : isPressEdge i s t = (!keyActive s && keyActive t) := rfl

theorem isRelease_eq (i : Instr) (s t : State) : isRelease i s t = (keyActive s && !keyActive t) := rfl

/-- A press makes the key active and a release makes it inactive, each from the other. -/
theorem pressEdge_add_active (i : Instr) (s t : State) :
    (isPressEdge i s t).toNat + (keyActive s).toNat = (isRelease i s t).toNat + (keyActive t).toNat := by
  rw [isPressEdge_eq, isRelease_eq]
  cases keyActive s <;> cases keyActive t <;> rfl

theorem countSteps_cons_toNat {p : Instr → State → State → Bool} {is : List Instr} {u : State} (h : exec i s = .next u) :
    countSteps p (i :: is) s = (p i s u).toNat + countSteps p is u := by
  rw [countSteps_cons h, Bool.toNat, Bool.cond_eq_ite]

variable {ops : List Instr}

/-- By induction on the run: presses and releases alternate, so their numbers differ by where the run starts and ends. -/
theorem countSteps_pressEdge_add_active (h : execAll ops s = .next t) :
    countSteps isPressEdge ops s + (keyActive s).toNat = countSteps isRelease ops s + (keyActive t).toNat := by
  induction ops generalizing s with
  | nil => rw [execAll_nil.mp h]; rfl
  | cons i is ih =>
    obtain ⟨u, hu, hrest⟩ := execAll_cons.mp h
    rw [countSteps_cons_toNat hu, countSteps_cons_toNat hu]
    have hstep := pressEdge_add_active i s u
    have hrun := ih hrest
    omega

/-- By induction on the run: reports and the edge left unread come from the edges of the run and the one it started with. -/
theorem countSteps_keyReport_le (h : execAll ops s = .next t) :
    countSteps isKeyReport ops s + t.pressEvent.toNat ≤ countSteps isPressEdge ops s + s.pressEvent.toNat := by
  induction ops generalizing s with
  | nil => rw [execAll_nil.mp h]; exact le_rfl
  | cons i is ih =>
    obtain ⟨u, hu, hrest⟩ := execAll_cons.mp h
    rw [countSteps_cons_toNat hu, countSteps_cons_toNat hu]
    have hstep := exec_report_le_edge hu
    have hrun := ih hrest
    omega

theorem countSteps_keyReport_le_pressEdge (h : execAll ops s = .next t) (hclear : s.pressEvent = false) :
    countSteps isKeyReport ops s ≤ countSteps isPressEdge ops s := by
  have hle := countSteps_keyReport_le h
  rw [hclear] at hle
  exact (Nat.le_add_right _ _).trans hle

theorem countSteps_pressEdge_le_release (h : execAll ops s = .next t) (hactive : s.stableLevel = s.cfg.keyActiveLevel) :
    countSteps isPressEdge ops s ≤ countSteps isRelease ops s := by
  have hbalance := countSteps_pressEdge_add_active h
  have hs : (keyActive s).toNat = 1 := by simp [keyActive, hactive]
  have ht := (keyActive t).toNat_le
  omega

end edges

/-- Settles O43: two balances along a run, and after an RD_KEY no edge is unread. -/
theorem edgeLaw : Obligations.EdgeLaw := by
  unfold Obligations.EdgeLaw
  refine ⟨fun _ _ _ => exec_sets_pressEvent, fun _ _ _ => countSteps_pressEdge_le_release,
    fun _ _ _ => countSteps_keyReport_le_pressEdge, ?_⟩
  intro ops s t u hread h hnone
  have hle := countSteps_keyReport_le_pressEdge h (rdKey_clears_pressEvent hread)
  rw [hnone] at hle
  exact Nat.le_zero.mp hle

end Sys2Proof.Machine
end

section
/-! The quadrature unit (42_quadrature.md): the words of its operations, the shape of the decode table, what each operation
does to a wheel's registers, and what a run counts of the changes of a wheel's pins. -/

/-! ## EV_PINS (R160) -/

namespace Sys2Proof.Laws

/-- At the `PORT_BITS` of the opcode table the pins of an EV_PINS word are `data[7:0]` (R92). -/
theorem encodedBy_evPins :
    Machine.EncodedBy 0x20000000#32 0xFFFFFF00#32 (fun x => .evPins (x.setWidth 8 |>.setWidth 16)) := by
  intro x hx
  have hrow : Machine.EncodedBy 0x20000000#32 (pinsMask tablePortBits) (fun x => .evPins (dataField x)) :=
    encodedBy_of_row (name := "EV_PINS") (by simp [opTable])
  have hdec : decode tablePortBits x = .ok (.evPins (dataField x)) := hrow x hx
  have hfits : (dataField x).toNat < 2 ^ 8 := of_decide_eq_true (wellFormed_of_decode (by decide) hdec)
  have hpins : dataField x = (x.setWidth 8).setWidth 16 := by
    apply BitVec.eq_of_toNat_eq
    simp only [dataField, BitVec.extractLsb'_toNat, BitVec.toNat_setWidth] at hfits ⊢
    omega
  rw [hdec, hpins]

end Sys2Proof.Laws

namespace Sys2Proof.Machine

/-- The new levels differ from the old ones in a bit of `MON_MASK` (R160). -/
theorem monitoredChange_iff (v : Half) (s : State) :
    monitoredChange v s = true ↔ ∃ k, v.getLsbD k ≠ s.portPins.getLsbD k ∧ s.cfg.monMask.getLsbD k = true := by
  have hbit : ∀ k, ((v ^^^ s.portPins) &&& s.cfg.monMask).getLsbD k = true ↔
      v.getLsbD k ≠ s.portPins.getLsbD k ∧ s.cfg.monMask.getLsbD k = true := by simp
  simp only [← hbit, monitoredChange, bne_iff_ne]
  constructor
  · intro hne
    by_contra hnone
    push Not at hnone
    exact hne (BitVec.eq_of_getLsbD_eq fun k _ => by simpa using hnone k)
  · rintro ⟨k, hk⟩ hzero
    rw [hzero] at hk
    simp at hk

/-- Settles O16: the flag keeps a change that is already pending. -/
theorem pinChangePendsThePort : Obligations.PinChangePendsThePort := by
  unfold Obligations.PinChangePendsThePort
  refine ⟨fun _ => rfl, Laws.encodedBy_evPins, fun s v hfault => ?_⟩
  refine ⟨_, exec_evPins_next.mpr ⟨hfault, rfl⟩, rfl, ?_⟩
  rw [← monitoredChange_iff, ← Bool.or_eq_true_iff]

/-! ## RD_POS (R165) -/

theorem encode_rdPos (w : BitVec 4) : encode (.rdPos w) = 0x7#4 ++ w ++ 0#24 := by
  revert w
  decide

/-- Settles O21: the two legal identifiers, and the fault of every other. -/
theorem readPositionReturnsThePosition : Obligations.ReadPositionReturnsThePosition := by
  unfold Obligations.ReadPositionReturnsThePosition
  refine ⟨fun _ => rfl, Laws.encodedBy_of_row (name := "RD_POS") (by simp [opTable, selField]), fun s hfault => ⟨?_, ?_, ?_⟩⟩
  · exact exec_rdPos_next.mpr ⟨hfault, .inl ⟨.one, selIdent_one, rfl⟩⟩
  · exact exec_rdPos_next.mpr ⟨hfault, .inl ⟨.two, selIdent_two, rfl⟩⟩
  · intro w hone htwo
    have hsel : selIdent w = none := by
      rcases selIdent_cases w with ⟨h, -⟩ | ⟨h, -⟩ | ⟨-, -, h, -⟩
      · exact absurd h hone
      · exact absurd h htwo
      · exact h
    rw [← encode_rdPos]
    exact exec_rdPos_next.mpr ⟨hfault, .inr ⟨hsel, rfl⟩⟩

/-! ## The decode table (R164) -/

/-- Settles O44: a fact about the sixteen entries. -/
theorem decodeTableShape : Obligations.DecodeTableShape := by
  unfold Obligations.DecodeTableShape
  decide

theorem ofInt_qtab_cases (prev cur : BitVec 2) :
    BitVec.ofInt 16 (qtab prev cur) = 0#16 ∨ BitVec.ofInt 16 (qtab prev cur) = 1#16 ∨
      BitVec.ofInt 16 (qtab prev cur) = -1#16 := by
  revert prev cur
  decide

theorem qtab_self (st : BitVec 2) : qtab st st = 0 := by
  revert st
  decide

/-- The table counts the one step from `prev` to `cur`: along the cycle, against it, or neither. -/
theorem qtab_eq_step (prev cur : BitVec 2) :
    qtab prev cur = (if cur = cycleNext prev then 1 else 0) - (if prev = cycleNext cur then 1 else 0) := by
  revert prev cur
  decide

theorem netSteps_cons (prev cur : BitVec 2) (rest : List (BitVec 2)) :
    netSteps prev (cur :: rest) = qtab prev cur + netSteps cur rest := by
  rw [qtab_eq_step]
  rfl

/-! ## A wheel's registers, operation by operation (R50, R160 to R163) -/

section wheel
variable {i : Instr} {s t : State}

/-- The state that the pins of wheel `w` show (R162). -/
def shownState (w : Ident) (s : State) : BitVec 2 := wheelState s.cfg w s.portPins

/-- A port service counts the transition from the state last serviced to the state the pins show (R162, R163). -/
theorem exec_svcPort_wheel (w : Ident) (h : exec .svcPort s = .next t) :
    t.prevState.get w = shownState w s ∧ shownState w t = shownState w s ∧
      t.position.get w = s.position.get w + BitVec.ofInt 16 (qtab (s.prevState.get w) (shownState w s)) := by
  obtain ⟨-, -, -, rfl⟩ := exec_svcPort_next.mp h
  exact ⟨portService_prevState_get s.portPins s w, by simp [shownState],
    portService_position_get_eq_add s.portPins s w⟩

/-- No other operation counts, or moves the state last serviced. -/
theorem exec_keeps_wheel (hi : i ≠ .svcPort) (h : exec i s = .next t) :
    t.prevState = s.prevState ∧ t.position = s.position :=
  have written := exec_writtenAsListed h
  ⟨written.prevState.resolve_right hi, written.position.resolve_right hi⟩

theorem newPins_eq_some {v : Half} (hi : newPins i = some v) : i = .evPins v := by
  cases i <;> cases hi
  rfl

theorem exec_evPins_shownState {v : Half} (w : Ident) (h : exec (.evPins v) s = .next t) :
    shownState w t = wheelState s.cfg w v := by
  obtain ⟨-, rfl⟩ := exec_evPins_next.mp h
  rfl

theorem exec_keeps_shownState (w : Ident) (hi : newPins i = none) (h : exec i s = .next t) :
    shownState w t = shownState w s := by
  have notPins : ¬ ∃ v, i = .evPins v := by rintro ⟨v, rfl⟩; cases hi
  rw [shownState, (exec_keeps_cfg_trace h).1, (exec_writtenAsListed h).portPins.resolve_right notPins, shownState]

end wheel

/-- Settles O45: each entry of the decode table is 0, 1 or -1. -/
theorem positionChangesByAtMostOne : Obligations.PositionChangesByAtMostOne := by
  unfold Obligations.PositionChangesByAtMostOne
  intro i s t w h
  by_cases hi : i = .svcPort
  · subst hi
    obtain ⟨-, -, hposition⟩ := exec_svcPort_wheel w h
    rw [hposition]
    rcases ofInt_qtab_cases (s.prevState.get w) (shownState w s) with hcount | hcount | hcount <;> rw [hcount]
    · exact .inl (BitVec.add_zero _)
    · exact .inr ⟨rfl, .inl rfl⟩
    · exact .inr ⟨rfl, .inr (BitVec.sub_eq_add_neg _ _).symm⟩
  · obtain ⟨-, hposition⟩ := exec_keeps_wheel hi h
    exact .inl (by rw [hposition])

/-! ## Pin changes before one service (R167, R282) -/

section merged
variable {s t : State}

/-- A change of the pins and its service, whatever the pins showed before. -/
theorem wheel_of_pinsOps {v : Half} (w : Ident) (h : execAll (pinsOps v) s = .next t) :
    t.prevState.get w = wheelState s.cfg w v ∧
      t.position.get w = s.position.get w + BitVec.ofInt 16 (qtab (s.prevState.get w) (wheelState s.cfg w v)) := by
  obtain ⟨u, hpins, hservice⟩ := execAll_cons.mp h
  obtain ⟨_, hport, hnil⟩ := execAll_cons.mp hservice
  obtain rfl := execAll_nil.mp hnil
  obtain ⟨hkeptPrev, hkeptPosition⟩ := exec_keeps_wheel (by simp) hpins
  obtain ⟨hprev, -, hposition⟩ := exec_svcPort_wheel w hport
  rw [exec_evPins_shownState w hpins] at hprev hposition
  exact ⟨hprev, by rw [hposition, hkeptPosition, hkeptPrev]⟩

/-- Pin changes alone count nothing, and leave the state last serviced. -/
theorem execAll_evPins_keeps_wheel {vs : List Half} (h : execAll (vs.map Instr.evPins) s = .next t) :
    t.prevState = s.prevState ∧ t.position = s.position := by
  refine execAll_keeps_of_mem (P := fun u => u.prevState = s.prevState ∧ u.position = s.position) ?_ h ⟨rfl, rfl⟩
  rintro i hmem u v hstep ⟨hprev, hposition⟩
  obtain ⟨levels, -, rfl⟩ := List.mem_map.mp hmem
  obtain ⟨hkeptPrev, hkeptPosition⟩ := exec_keeps_wheel (by simp) hstep
  exact ⟨hkeptPrev.trans hprev, hkeptPosition.trans hposition⟩

end merged

/-- Settles O47: the changes before the last one leave the wheel's registers as they were. -/
theorem mergedPinChanges : Obligations.MergedPinChanges := by
  unfold Obligations.MergedPinChanges
  intro vs v s t w h
  obtain ⟨u, hlost, hlast⟩ := execAll_append.mp h
  obtain ⟨hkeptPrev, hkeptPosition⟩ := execAll_evPins_keeps_wheel hlost
  obtain ⟨hprev, hposition⟩ := wheel_of_pinsOps w hlast
  rw [cfg_of_execAll hlost] at hprev hposition
  refine ⟨hprev, ?_⟩
  rw [hposition, hkeptPosition, hkeptPrev, netSteps_cons, netSteps, Int.add_zero]

/-! ## Exact counting (R167) -/

/-- The position that a port service would leave now: it counts the transition that the pins have made since the last one. -/
def positionDue (w : Ident) (s : State) : Half :=
  s.position.get w + BitVec.ofInt 16 (qtab (s.prevState.get w) (shownState w s))

/-- The premise of exact counting, read from the state: `ops` serves the wheel's changes in turn, the one that the pins of `s`
may still show among them. -/
def ServesInTurn (w : Ident) (s : State) (ops : List Instr) : Prop :=
  servedInTurn s.cfg w (s.prevState.get w) (shownState w s) ops = true

section counting
variable {w : Ident} {i : Instr} {s t : State} {ops : List Instr}

theorem positionDue_of_serviced (h : s.prevState.get w = shownState w s) : positionDue w s = s.position.get w := by
  rw [positionDue, h, qtab_self]
  exact BitVec.add_zero _

/-- A service counts what was due, and nothing is due after it. -/
theorem exec_svcPort_positionDue (h : exec .svcPort s = .next t) : positionDue w t = positionDue w s := by
  obtain ⟨hprev, hshown, hposition⟩ := exec_svcPort_wheel w h
  rw [positionDue_of_serviced (hprev.trans hshown.symm), hposition, positionDue]

/-- A change of the pins makes its step due, if no other step was due or the wheel did not move. -/
theorem exec_evPins_positionDue {v : Half} (h : exec (.evPins v) s = .next t)
    (hturn : wheelState s.cfg w v = shownState w s ∨ s.prevState.get w = shownState w s) :
    positionDue w t = positionDue w s + BitVec.ofInt 16 (qtab (shownState w s) (wheelState s.cfg w v)) := by
  obtain ⟨hprev, hposition⟩ := exec_keeps_wheel (by simp) h
  rw [positionDue, hprev, hposition, exec_evPins_shownState w h]
  rcases hturn with hstill | hserviced
  · rw [hstill, qtab_self]
    exact (BitVec.add_zero _).symm
  · rw [positionDue_of_serviced hserviced, hserviced]

theorem exec_keeps_positionDue (hi : i ≠ .svcPort) (hpins : newPins i = none) (h : exec i s = .next t) :
    positionDue w t = positionDue w s := by
  obtain ⟨hprev, hposition⟩ := exec_keeps_wheel hi h
  rw [positionDue, hprev, hposition, exec_keeps_shownState w hpins h, positionDue]

theorem ServesInTurn.nil (h : ServesInTurn w s []) : s.prevState.get w = shownState w s := beq_iff_eq.mp h

theorem ServesInTurn.after_svcPort (hturn : ServesInTurn w s (.svcPort :: ops)) (h : exec .svcPort s = .next t) :
    ServesInTurn w t ops := by
  obtain ⟨hprev, hshown, -⟩ := exec_svcPort_wheel w h
  rw [ServesInTurn, (exec_keeps_cfg_trace h).1, hprev, hshown]
  exact hturn

theorem ServesInTurn.after_evPins {v : Half} (hturn : ServesInTurn w s (.evPins v :: ops))
    (h : exec (.evPins v) s = .next t) :
    (wheelState s.cfg w v = shownState w s ∨ s.prevState.get w = shownState w s) ∧ ServesInTurn w t ops := by
  rw [ServesInTurn, servedInTurn_evPins, Bool.and_eq_true, Bool.or_eq_true, Bool.and_eq_true, beq_iff_eq, beq_iff_eq] at hturn
  obtain ⟨hchange, hrest⟩ := hturn
  refine ⟨hchange.imp_right And.left, ?_⟩
  rw [ServesInTurn, (exec_keeps_cfg_trace h).1, (exec_keeps_wheel (by simp) h).1, exec_evPins_shownState w h]
  exact hrest

theorem ServesInTurn.after_other (hturn : ServesInTurn w s (i :: ops)) (hi : i ≠ .svcPort) (hpins : newPins i = none)
    (h : exec i s = .next t) : ServesInTurn w t ops := by
  rw [ServesInTurn, (exec_keeps_cfg_trace h).1, (exec_keeps_wheel hi h).1, exec_keeps_shownState w hpins h]
  rwa [ServesInTurn, servedInTurn_other _ _ _ _ _ hi hpins] at hturn

theorem wheelPath_cons (c : Config) (w : Ident) (i : Instr) (ops : List Instr) :
    wheelPath c w (i :: ops) = ((newPins i).map (wheelState c w)).toList ++ wheelPath c w ops := by
  cases h : newPins i <;> simp [wheelPath, h]

/-- By induction on the run: the position due moves by the step of each change, and at the end nothing is due. -/
theorem ServesInTurn.run (hturn : ServesInTurn w s ops) (h : execAll ops s = .next t) :
    t.position.get w = positionDue w s + BitVec.ofInt 16 (netSteps (shownState w s) (wheelPath s.cfg w ops)) ∧
      t.prevState.get w = shownState w t := by
  induction ops generalizing s with
  | nil =>
    obtain rfl := execAll_nil.mp h
    rw [positionDue_of_serviced hturn.nil]
    exact ⟨(BitVec.add_zero _).symm, hturn.nil⟩
  | cons i is ih =>
    obtain ⟨u, hu, hrest⟩ := execAll_cons.mp h
    have hcfg : u.cfg = s.cfg := (exec_keeps_cfg_trace hu).1
    rw [wheelPath_cons]
    cases hpins : newPins i with
    | some v =>
      obtain rfl := newPins_eq_some hpins
      obtain ⟨hchange, hturn'⟩ := hturn.after_evPins hu
      obtain ⟨hposition, hserviced⟩ := ih hturn' hrest
      refine ⟨?_, hserviced⟩
      rw [hposition, exec_evPins_positionDue hu hchange, exec_evPins_shownState w hu, hcfg, BitVec.add_assoc,
        ← BitVec.ofInt_add, ← netSteps_cons]
      rfl
    | none =>
      by_cases hi : i = .svcPort
      · subst hi
        obtain ⟨hposition, hserviced⟩ := ih (hturn.after_svcPort hu) hrest
        rw [exec_svcPort_positionDue hu, exec_keeps_shownState w hpins hu, hcfg] at hposition
        exact ⟨hposition, hserviced⟩
      · obtain ⟨hposition, hserviced⟩ := ih (hturn.after_other hi hpins hu) hrest
        rw [exec_keeps_positionDue hi hpins hu, exec_keeps_shownState w hpins hu, hcfg] at hposition
        exact ⟨hposition, hserviced⟩

/-- By induction on the changes. That each is of one bit is not used: a change of both bits, whose direction cannot be told,
counts 0 in the table as it does in the net steps (R164). -/
theorem position_of_servicedChanges {vs : List Half} (h : execAll (vs.flatMap pinsOps) s = .next t) :
    t.position.get w =
      s.position.get w + BitVec.ofInt 16 (netSteps (s.prevState.get w) (vs.map (wheelState s.cfg w))) := by
  induction vs generalizing s with
  | nil =>
    obtain rfl := execAll_nil.mp h
    exact (BitVec.add_zero _).symm
  | cons v vs ih =>
    rw [List.flatMap_cons] at h
    obtain ⟨u, hfirst, hrest⟩ := execAll_append.mp h
    obtain ⟨hprev, hposition⟩ := wheel_of_pinsOps w hfirst
    rw [ih hrest, hprev, hposition, cfg_of_execAll hfirst, BitVec.add_assoc, ← BitVec.ofInt_add, ← netSteps_cons,
      List.map_cons]

end counting

/-- Settles O46: a run that starts serviced has nothing due, so what it counts is the net steps of its changes. -/
theorem exactCounting : Obligations.ExactCounting := by
  unfold Obligations.ExactCounting
  refine ⟨?_, fun _ _ _ _ h _ => position_of_servicedChanges h⟩
  intro ops s t w h (hserviced : s.prevState.get w = shownState w s) hturn
  have hturn' : ServesInTurn w s ops := by rwa [ServesInTurn, ← hserviced]
  have hrun := hturn'.run h
  rwa [positionDue_of_serviced hserviced, ← hserviced] at hrun

end Sys2Proof.Machine
end

section
/-! The PWM unit (43_pwm.md): the words of its operations and what each does to the whole state, the clamp law of the duty
conversion, the gate output, and what a run must hold before a gate shows a duty. -/

namespace Sys2Proof.Machine

/-! ## The `sel` of no channel (R93) -/

theorem selIdent_eq_none_of_ne {sel : BitVec 4} (hone : sel ≠ 1#4) (htwo : sel ≠ 2#4) : selIdent sel = none := by
  rcases selIdent_cases sel with ⟨h, -⟩ | ⟨h, -⟩ | ⟨-, -, h, -⟩
  · exact absurd h hone
  · exact absurd h htwo
  · exact h

/-! ## The duty conversion (R180, R186) -/

/-- The two bounds of a clamp may be applied in either order, where they do not cross. -/
theorem clamp_eq_max_min {v lo hi : Int} (h : lo ≤ hi) : clamp v lo hi = max lo (min v hi) := by
  unfold clamp
  omega

/-- `MAX_DUTY` has `DUTY_IN_BITS` bits (R9), of which the shift leaves `PWM_RES_BITS`. -/
theorem maxDutyHw_lt {c : Config} (hadm : c.admissible = true) : maxDutyHw c < 2 ^ c.pwmResBits := by
  obtain ⟨-, -, -, -, -, ⟨-, hle, -⟩, hmax, -⟩ := c.admissible_iff_everyBullet.mp hadm
  have hbits : 2 ^ dutyShift c * 2 ^ c.pwmResBits = 2 ^ c.dutyInBits := by
    rw [← Nat.pow_add]
    exact congrArg (2 ^ ·) (Nat.sub_add_cancel hle)
  exact Nat.div_lt_of_lt_mul (hbits ▸ Nat.lt_of_le_pred (Nat.two_pow_pos _) hmax)

section duty
variable (c : Config)

/-- Dropping the low-order bits is a right shift by `DUTY_SHIFT`. -/
theorem dutyOperand_eq_shiftRight (d : Half) :
    dutyOperand c d = (max 0 (min d.toInt c.maxDuty)).toNat >>> (c.dutyInBits - c.pwmResBits) := by
  rw [Nat.shiftRight_eq_div_pow, ← clamp_eq_max_min (Int.natCast_nonneg c.maxDuty)]
  rfl

theorem maxDutyHw_eq_shiftRight : maxDutyHw c = c.maxDuty >>> (c.dutyInBits - c.pwmResBits) :=
  (Nat.shiftRight_eq_div_pow _ _).symm

theorem dutyOperand_of_nonpos {d : Half} (h : d.toInt ≤ 0) : dutyOperand c d = 0 := by
  have hclamp : clamp (sext16 d) 0 c.maxDuty = 0 := by
    unfold clamp sext16
    omega
  rw [dutyOperand, hclamp]
  exact Nat.zero_div _

theorem dutyOperand_of_maxDuty_le {d : Half} (h : (c.maxDuty : Int) ≤ d.toInt) : dutyOperand c d = maxDutyHw c := by
  have hclamp : clamp (sext16 d) 0 c.maxDuty = c.maxDuty := by
    unfold clamp sext16
    omega
  rw [dutyOperand, hclamp]
  rfl

/-- The clamp and the shift each keep the order. -/
theorem dutyOperand_mono {d₁ d₂ : Half} (h : d₁.toInt ≤ d₂.toInt) : dutyOperand c d₁ ≤ dutyOperand c d₂ :=
  Nat.div_le_div_right (Int.toNat_le_toNat (min_le_min_right _ (max_le_max_right _ h)))

end duty

/-! ## SET_DUTY, PWM_INIT and EV_PWM_CYCLE (R180 to R182) -/

theorem encode_setDuty (c : BitVec 4) (d : Half) : encode (.setDuty c d) = 0xA#4 ++ c ++ 0#8 ++ d := rfl

/-- A legal `sel` writes the converted duty into its channel. -/
theorem exec_setDuty_of_selIdent {c : BitVec 4} {ch : Ident} (d : Half) {s : State} (hsel : selIdent c = some ch)
    (hfault : s.fault = none) :
    exec (.setDuty c d) s = .next { s with dutyHw := s.dutyHw.set ch (dutyOperand s.cfg d) } :=
  exec_setDuty_next.mpr ⟨hfault, .inl ⟨ch, hsel, rfl⟩⟩

/-- Settles O50: the maximum fits the register, and the conversion stays at or below it. -/
theorem clampLaw : Obligations.ClampLaw := by
  unfold Obligations.ClampLaw
  intro c hadm
  rw [← maxDutyHw_eq_shiftRight]
  refine ⟨fun d => ⟨dutyOperand_le c d, (dutyOperand_le c d).trans_lt (maxDutyHw_lt hadm), dutyOperand_of_nonpos c,
    dutyOperand_of_maxDuty_le c⟩, fun _ _ => dutyOperand_mono c, ?_⟩
  rintro s d rfl hfault
  exact ⟨⟨_, exec_setDuty_of_selIdent d selIdent_one hfault, rfl⟩, ⟨_, exec_setDuty_of_selIdent d selIdent_two hfault, rfl⟩⟩

/-- Settles O24: the two channels, and the fault of every other `sel`. -/
theorem setDutyClampsThenShifts : Obligations.SetDutyClampsThenShifts := by
  unfold Obligations.SetDutyClampsThenShifts
  refine ⟨fun _ _ => rfl, Laws.encodedBy_of_row (name := "SET_DUTY") ?_, fun s d hfault => ?_⟩
  · simp [opTable, selField, dataField, BitVec.setWidth_eq_extractLsb']
  · rw [← dutyOperand_eq_shiftRight]
    refine ⟨exec_setDuty_of_selIdent d selIdent_one hfault, exec_setDuty_of_selIdent d selIdent_two hfault, ?_⟩
    intro c hone htwo
    rw [← encode_setDuty]
    exact exec_setDuty_next.mpr ⟨hfault, .inr ⟨selIdent_eq_none_of_ne hone htwo, rfl⟩⟩

/-- Settles O25: `pwm_init_done` tells the first PWM_INIT from a later one. -/
theorem pwmInitRunsOnce : Obligations.PwmInitRunsOnce := by
  unfold Obligations.PwmInitRunsOnce
  refine ⟨fun _ => rfl, Laws.encodedBy_of_row (name := "PWM_INIT") ?_, fun s p hfault => ⟨fun hfirst => ?_, fun hagain => ?_⟩⟩
  · simp [opTable, dataField, BitVec.setWidth_eq_extractLsb']
  · exact exec_pwmInit_next.mpr ⟨hfault, .inl ⟨hfirst, rfl⟩⟩
  · rw [← encode_pwmInit]
    exact exec_pwmInit_next.mpr ⟨hfault, .inr ⟨hagain, rfl⟩⟩

/-- Settles O17: before PWM_INIT a step would contradict its enabling condition. -/
theorem carrierStartsAtAFullCycleAfterInit : Obligations.CarrierStartsAtAFullCycleAfterInit := by
  unfold Obligations.CarrierStartsAtAFullCycleAfterInit
  refine ⟨rfl, Laws.encodedBy_of_row (name := "EV_PWM_CYCLE") (by simp [opTable]), fun s hfault => ⟨fun hdone => ?_, ?_⟩⟩
  · exact exec_evPwmCycle_next.mpr ⟨hfault, hdone, rfl⟩
  · intro hnot t h
    obtain ⟨-, hdone, -⟩ := exec_evPwmCycle_next.mp h
    exact Bool.false_ne_true (hnot.symm.trans hdone)

/-! ## The gate output (R185) -/

theorem gateDuty_of_running {s : State} (h : s.pwmRunning = true) (ch : Ident) : gateDuty s ch = s.dutyHw.get ch := if_pos h

theorem gateDuty_of_stopped {s : State} (h : s.pwmRunning = false) (ch : Ident) : gateDuty s ch = 0 :=
  if_neg (Bool.not_eq_true _ ▸ h)

/-- Settles O29: the two values of `pwm_running`. -/
theorem gateShowsTheDutyOnlyWhileTheCarrierRuns : Obligations.GateShowsTheDutyOnlyWhileTheCarrierRuns := by
  unfold Obligations.GateShowsTheDutyOnlyWhileTheCarrierRuns
  exact fun s ch => ⟨fun h => gateDuty_of_running h ch, fun h => gateDuty_of_stopped h ch⟩

/-! ## What a run holds before a gate shows a duty (R182, R185, R273) -/

/-- A run that makes `P` true has an operation that does. -/
theorem execAll_makes {P : State → Prop} {ops : List Instr} {s t : State} (h : execAll ops s = .next t) (hs : ¬ P s)
    (ht : P t) :
    ∃ before i after u v, ops = before ++ i :: after ∧ execAll before s = .next u ∧ exec i u = .next v ∧ ¬ P u ∧ P v := by
  induction ops generalizing s with
  | nil => exact absurd (execAll_nil.mp h ▸ ht) hs
  | cons i is ih =>
    obtain ⟨u, hu, hrest⟩ := execAll_cons.mp h
    by_cases hp : P u
    · exact ⟨[], i, is, s, u, rfl, execAll_nil.mpr rfl, hu, hs, hp⟩
    · obtain ⟨before, j, after, v, w, rfl, hbefore, hj, hv, hw⟩ := ih hrest hp
      exact ⟨i :: before, j, after, v, w, rfl, execAll_cons.mpr ⟨u, hu, hbefore⟩, hj, hv, hw⟩

section carrier
variable {ops : List Instr} {s t : State}

theorem execAll_starts_carrier (h : execAll ops s = .next t) (hstopped : s.pwmRunning = false) (hrun : t.pwmRunning = true) :
    ∃ before after u, ops = before ++ .evPwmCycle :: after ∧ execAll before s = .next u ∧ u.pwmInitDone = true := by
  obtain ⟨before, i, after, u, v, hops, hbefore, hi, hu, hv⟩ :=
    execAll_makes (P := fun s => s.pwmRunning = true) h (by simp [hstopped]) hrun
  obtain rfl : i = .evPwmCycle := (exec_writtenAsListed hi).pwmRunning.resolve_left fun hkept => hu (hkept ▸ hv)
  obtain ⟨-, hdone, -⟩ := exec_evPwmCycle_next.mp hi
  exact ⟨before, after, u, hops, hbefore, hdone⟩

theorem execAll_inits (h : execAll ops s = .next t) (hnot : s.pwmInitDone = false) (hdone : t.pwmInitDone = true) :
    ∃ before period after, ops = before ++ .pwmInit period :: after := by
  obtain ⟨before, i, after, u, v, hops, -, hi, hu, hv⟩ :=
    execAll_makes (P := fun s => s.pwmInitDone = true) h (by simp [hnot]) hdone
  obtain ⟨period, rfl⟩ := (exec_writtenAsListed hi).pwmInitDone.resolve_left fun hkept => hu (hkept ▸ hv)
  exact ⟨before, period, after, hops⟩

end carrier

/-- Settles O51: the carrier runs where a gate shows a duty; EV_PWM_CYCLE started it, which only a PWM_INIT before enables. -/
theorem gatesStayInactiveUntilTheCarrierStarts : Obligations.GatesStayInactiveUntilTheCarrierStarts := by
  unfold Obligations.GatesStayInactiveUntilTheCarrierStarts
  intro c pins ops t ch h hgate
  have hrun : t.pwmRunning = true := by
    by_contra hstopped
    exact hgate (gateDuty_of_stopped (Bool.eq_false_iff.mpr hstopped) ch)
  obtain ⟨upToCycle, after, u, rfl, hu, hdone⟩ := execAll_starts_carrier h rfl hrun
  obtain ⟨before, period, between, rfl⟩ := execAll_inits hu rfl hdone
  exact ⟨before, period, between, after, List.append_assoc _ _ _⟩

end Sys2Proof.Machine
end

section
/-! The speed unit (44_speed.md): the words of its operation, how a speed depends on the count difference, and what a run keeps
between two samples. -/

namespace Sys2Proof.Machine

/-! ## RD_SPEED (R202) -/

theorem encode_rdSpeed (w : BitVec 4) : encode (.rdSpeed w) = 0x8#4 ++ w ++ 0#24 := by
  revert w
  decide

/-- Settles O22: the two legal identifiers, and the fault of every other. -/
theorem readSpeedReturnsTheLatestSample : Obligations.ReadSpeedReturnsTheLatestSample := by
  unfold Obligations.ReadSpeedReturnsTheLatestSample
  refine ⟨fun _ => rfl, Laws.encodedBy_of_row (name := "RD_SPEED") (by simp [opTable, selField]), fun s hfault => ⟨?_, ?_, ?_⟩⟩
  · exact exec_rdSpeed_next.mpr ⟨hfault, .inl ⟨.one, selIdent_one, rfl⟩⟩
  · exact exec_rdSpeed_next.mpr ⟨hfault, .inl ⟨.two, selIdent_two, rfl⟩⟩
  · intro w hone htwo
    rw [← encode_rdSpeed]
    exact exec_rdSpeed_next.mpr ⟨hfault, .inr ⟨selIdent_eq_none_of_ne hone htwo, rfl⟩⟩

/-! ## The speed of a count difference (R200, R201) -/

section conversion
variable (c : Config)

theorem toInt_speedOf (delta : Int) : (speedOf c delta).toInt = sat16 (tdiv (delta * speedNum c) (speedDen c)) :=
  toInt_wrap16_sat16 _

theorem speedNum_eq_natCast : speedNum c = ((c.wheelCircMm * 1000 : Nat) : Int) := rfl

theorem speedDen_eq_natCast : speedDen c = ((c.ticksPerRev * c.samplePeriodMs : Nat) : Int) := rfl

/-- Both factors of `SPEED_DEN` are at least 1 (R9). -/
theorem speedDen_pos {c : Config} (hadm : c.admissible = true) : 0 < speedDen c := by
  obtain ⟨-, -, -, -, ⟨hrev, hperiod⟩, -⟩ := c.admissible_iff_everyBullet.mp hadm
  exact Int.natCast_pos.mpr (Nat.mul_pos hrev hperiod)

@[simp] theorem speedOf_zero : speedOf c 0 = 0#16 := by
  rw [speedOf, Int.zero_mul, tdiv, Int.zero_tdiv]
  rfl

/-- A product below the divisor divides to 0, the division being truncating. -/
theorem speedOf_eq_zero_of_lt {delta : Int}
    (hlt : delta.natAbs * (c.wheelCircMm * 1000) < c.ticksPerRev * c.samplePeriodMs) : speedOf c delta = 0#16 := by
  have hquot : tdiv (delta * speedNum c) (speedDen c) = 0 := by
    rw [tdiv, ← Int.natAbs_eq_zero, Int.natAbs_tdiv, speedNum_eq_natCast, speedDen_eq_natCast,
      Int.natAbs_mul, Int.natAbs_natCast, Int.natAbs_natCast]
    exact Nat.div_eq_of_lt hlt
  rw [speedOf, hquot]
  rfl

/-- The product, the division and the saturation each keep the order. -/
theorem speedOf_mono (hadm : c.admissible = true) {d₁ d₂ : Int} (h : d₁ ≤ d₂) :
    (speedOf c d₁).toInt ≤ (speedOf c d₂).toInt := by
  have hnum : 0 ≤ speedNum c := Int.natCast_nonneg _
  have hquot : tdiv (d₁ * speedNum c) (speedDen c) ≤ tdiv (d₂ * speedNum c) (speedDen c) :=
    Int.tdiv_le_tdiv (speedDen_pos hadm) (Int.mul_le_mul_of_nonneg_right h hnum)
  rw [toInt_speedOf, toInt_speedOf]
  exact min_le_min_right _ (max_le_max_right _ hquot)

theorem lt_of_speedOf_lt (hadm : c.admissible = true) {d₁ d₂ : Int}
    (h : (speedOf c d₁).toInt < (speedOf c d₂).toInt) : d₁ < d₂ :=
  lt_imp_lt_of_le_imp_le (speedOf_mono c hadm) h

end conversion

/-! ## What a sample writes, and what a run keeps between samples (R200, R203) -/

section samples
variable {i : Instr} {s t : State}

/-- A sample takes the speed of the difference since the last sample, and becomes the last sample itself. -/
theorem exec_svcTick_samples (w : Ident) (h : exec .svcTick s = .next t)
    (hsample : isEventTick s.cfg.div100ms .svcTick s t = true) :
    t.speed.get w = speedOf s.cfg (speedDelta w s) ∧ t.prevPosition = s.position := by
  obtain ⟨-, -, -, rfl⟩ := exec_svcTick_next.mp h
  rw [isEventTick_tickService, beq_iff_eq] at hsample
  rw [tickService_speed, tickService_prevPosition, if_pos hsample, if_pos hsample]
  cases w <;> exact ⟨rfl, rfl⟩

/-- A tick service that is not a sample leaves the speed unit alone, as every other operation does (R50). -/
theorem exec_keeps_speedUnit (h : exec i s = .next t) (hnot : isEventTick s.cfg.div100ms i s t = false) :
    t.speed = s.speed ∧ t.prevPosition = s.prevPosition := by
  by_cases hi : i = .svcTick
  · subst hi
    obtain ⟨-, -, -, rfl⟩ := exec_svcTick_next.mp h
    rw [isEventTick_tickService, beq_eq_false_iff_ne] at hnot
    rw [tickService_speed, tickService_prevPosition, if_neg hnot, if_neg hnot]
    exact ⟨rfl, rfl⟩
  · have written := exec_writtenAsListed h
    exact ⟨written.speed.resolve_right hi, written.prevPosition.resolve_right hi⟩

/-- What every step that `p` does not tell keeps, a run without a step that `p` tells keeps. -/
theorem execAll_keeps_of_countSteps_eq_zero {P : State → Prop} {p : Instr → State → State → Bool}
    (hstep : ∀ i s t, exec i s = .next t → p i s t = false → P s → P t) {ops : List Instr} {s t : State}
    (h : execAll ops s = .next t) (hcount : countSteps p ops s = 0) (hp : P s) : P t := by
  induction ops generalizing s with
  | nil => exact execAll_nil.mp h ▸ hp
  | cons i is ih =>
    obtain ⟨u, hu, hrest⟩ := execAll_cons.mp h
    rw [countSteps_cons hu, Nat.add_eq_zero_iff] at hcount
    obtain ⟨hfirst, hothers⟩ := hcount
    have hnot : p i s u = false := by simpa using hfirst
    exact ih hrest hothers (hstep i s u hu hnot hp)

theorem execAll_keeps_prevPosition {ops : List Instr} (h : execAll ops s = .next t)
    (hcount : countSteps (isEventTick s.cfg.div100ms) ops s = 0) : t.prevPosition = s.prevPosition := by
  refine (execAll_keeps_of_countSteps_eq_zero (P := fun u => u.cfg = s.cfg ∧ u.prevPosition = s.prevPosition)
    ?_ h hcount ⟨rfl, rfl⟩).2
  rintro i u v hstep hnot ⟨hcfg, hprev⟩
  rw [← hcfg] at hnot
  exact ⟨(exec_keeps_cfg_trace hstep).1.trans hcfg, (exec_keeps_speedUnit hstep hnot).2.trans hprev⟩

theorem speedDelta_eq_zero {w : Ident} (h : s.position.get w = s.prevPosition.get w) : speedDelta w s = 0 := by
  rw [speedDelta_eq, h, BitVec.sub_self]
  rfl

end samples

/-! ## The laws of the speed unit (R203 to R205) -/

/-- Settles O52: the frame and the value of one operation, and the number of samples by the phase of the tick (R126). -/
theorem oneSamplePerMacroPeriod : Obligations.OneSamplePerMacroPeriod := by
  unfold Obligations.OneSamplePerMacroPeriod
  refine ⟨fun _ _ _ h hnot => (exec_keeps_speedUnit h hnot).1, ?value, ?number⟩
  case value =>
    intro s t w h hsample
    rw [(exec_svcTick_samples w h hsample).1, speedOf_speedDelta]
  case number =>
    intro c pins ops t hadm h
    obtain ⟨⟨-, -, -, -, -, hdvd, -⟩, -⟩ := c.admissible_iff_everyBullet.mp hadm
    rw [countSteps_isEventTick hdvd h]
    simp [State.powerOn]

/-- Settles O53: the first sample records the position, the run between the samples keeps the record, and the second sample
finds no difference. -/
theorem zeroLaw : Obligations.ZeroLaw := by
  unfold Obligations.ZeroLaw
  intro s₀ s₁ s₂ s₃ ops w hfirst hsample₁ hrun hcount hsecond hsample₂ hsame
  have hcfg₁ : s₁.cfg = s₀.cfg := (exec_keeps_cfg_trace hfirst).1
  have hcfg₂ : s₂.cfg = s₀.cfg := (cfg_of_execAll hrun).trans hcfg₁
  rw [← hcfg₁] at hcount
  rw [← hcfg₂] at hsample₂
  have hprev : s₂.prevPosition = s₀.position :=
    (execAll_keeps_prevPosition hrun hcount).trans (exec_svcTick_samples w hfirst hsample₁).2
  have hdelta : speedDelta w s₂ = 0 := speedDelta_eq_zero (by rw [hsame, hprev])
  rw [(exec_svcTick_samples w hsecond hsample₂).1, hdelta, speedOf_zero]

/-- Settles O54: the conversion is monotone and takes 0 to 0, so it keeps signs. With `WHEEL_CIRC_MM = 0` every difference is a
small one. -/
theorem signLaw : Obligations.SignLaw := by
  unfold Obligations.SignLaw
  intro s t w hadm h hsample
  rw [(exec_svcTick_samples w h hsample).1, ← speedDelta_eq]
  refine ⟨fun hpos => ?_, fun hneg => ?_, fun hcirc => ?_, speedOf_eq_zero_of_lt s.cfg⟩
  · exact lt_of_speedOf_lt s.cfg hadm (by rwa [speedOf_zero])
  · exact lt_of_speedOf_lt s.cfg hadm (by rwa [speedOf_zero])
  · apply speedOf_eq_zero_of_lt
    rw [hcirc, Nat.zero_mul, Nat.mul_zero]
    exact Int.natCast_pos.mp (speedDen_pos hadm)

end Sys2Proof.Machine
end

section
/-! System control (45_system.md): what SET_IE does to the whole state, and the bits of the status word. -/

namespace Sys2Proof.Machine

/-! ## SET_IE (R220) -/

/-- At the `PORT_BITS` of the opcode table `b` is bit 0 of the word, which is bit 0 of its data field (R92). -/
theorem encodedBy_setIe : EncodedBy 0xC0000000#32 0xFFFFFFFE#32 (fun x => .setIe (x.getLsbD 0)) := by
  have hbit (x : Word) : (dataField x).getLsbD 0 = x.getLsbD 0 := by simp [dataField]
  have hrow : EncodedBy 0xC0000000#32 0xFFFFFFFE#32 (fun x => .setIe ((dataField x).getLsbD 0)) :=
    Laws.encodedBy_of_row (name := "SET_IE") (by simp [opTable])
  simpa only [hbit] using hrow

/-- Settles O26: enabling arms, whatever the old `tick_armed`; disabling keeps it. -/
theorem setInterruptEnable : Obligations.SetInterruptEnable := by
  unfold Obligations.SetInterruptEnable
  refine ⟨fun _ => rfl, encodedBy_setIe, fun s hfault => ⟨?enable, ?disable⟩⟩
  case enable => exact exec_setIe_next.mpr ⟨hfault, by rw [Bool.or_true]⟩
  case disable => exact exec_setIe_next.mpr ⟨hfault, by rw [Bool.or_false]⟩

/-! ## RD_STATUS (R221, R222) -/

/-- The rows of R222's field table, bit 0 first; the two reserved bits read as 0. -/
def statusFields (s : State) : List Bool :=
  [s.tmrPend, s.pcPend, s.ie, s.tickArmed, s.tmrOverrun, s.pwmInitDone, s.pwmRunning, s.dbState == .bouncing,
    s.stableLevel, s.rawLevel, s.pressEvent, s.ev50ms, s.ev100ms, s.ev1s, false, false]

theorem statusWord_eq_ofBoolListLE (s : State) : statusWord s = BitVec.ofBoolListLE (statusFields s) := rfl

theorem getLsbD_statusWord (s : State) (i : Nat) : (statusWord s).getLsbD i = (statusFields s).getD i false := by
  rw [statusWord_eq_ofBoolListLE]
  exact BitVec.getLsbD_ofBoolListLE

/-- Settles O27: the delivered word is the status word, whose bits are the rows of the field table. -/
theorem statusWordLayout : Obligations.StatusWordLayout := by
  unfold Obligations.StatusWordLayout
  refine ⟨rfl, Laws.encodedBy_of_row (name := "RD_STATUS") (by simp [opTable]),
    fun s hfault => ⟨statusWord s, exec_rdStatus_next.mpr ⟨hfault, rfl⟩, ?_⟩⟩
  simp only [getLsbD_statusWord]
  simp [statusFields, beq_eq_decide]

end Sys2Proof.Machine
end

section
/-! Exceptions and interrupts (60_exceptions.md): what a fault record stops and what an operation that faults leaves, when the
two services run, what their order decides, and what fairness gives. -/

namespace Sys2Proof.Machine

/-! ## After a fault (R240) -/

/-- Settles O10: an operation and a step answer a next state only where no fault is recorded, and no word is taken after one. -/
theorem nothingRunsAfterAFault : Obligations.NothingRunsAfterAFault := by
  unfold Obligations.NothingRunsAfterAFault
  intro s f hf
  have hfault : s.fault ≠ none := by simp [hf]
  refine ⟨fun i t h => hfault (exec_next_fault h), fun t h => ?_,
    fun hadm => step_of_fetch_error (fetchWord_faulted hadm hf)⟩
  obtain ⟨-, hnone, -⟩ := step_eq_next.mp h
  exact hfault hnone

/-! ## The fault of an operation (R241, R242) -/

theorem legalSel_eq_isSome (sel : BitVec 4) : legalSel sel = (selIdent sel).isSome := by
  rcases selIdent_cases sel with ⟨-, hident, hlegal⟩ | ⟨-, hident, hlegal⟩ | ⟨-, -, hident, hlegal⟩ <;>
    rw [hident, hlegal] <;> rfl

/-- An operation that steps meets no cause of R241 and records nothing, or meets one and leaves nothing but the record. Only
the operations with a `sel` and PWM_INIT can meet one. -/
theorem exec_runs_or_faults {i : Instr} {s t : State} (h : exec i s = .next t) :
    (raisesFault i s = false ∧ t.fault = none) ∨
      (raisesFault i s = true ∧
        t = faultedWith (if i.selLegal then .pwmReinit else .illegalSelect) (encode i) s) := by
  have hs : s.fault = none := exec_next_fault h
  cases i
  case evTimer => obtain ⟨-, rfl⟩ := exec_evTimer_next.mp h; exact .inl ⟨rfl, hs⟩
  case evPins => obtain ⟨-, rfl⟩ := exec_evPins_next.mp h; exact .inl ⟨rfl, hs⟩
  case evPwmCycle => obtain ⟨-, -, rfl⟩ := exec_evPwmCycle_next.mp h; exact .inl ⟨rfl, hs⟩
  case svcTick =>
    obtain ⟨-, -, -, rfl⟩ := exec_svcTick_next.mp h
    exact .inl ⟨rfl, (tickService_fault s).trans hs⟩
  case svcPort =>
    obtain ⟨-, -, -, rfl⟩ := exec_svcPort_next.mp h
    exact .inl ⟨rfl, (portService_fault s.portPins s).trans hs⟩
  case rdTick => obtain ⟨-, rfl⟩ := exec_rdTick_next.mp h; exact .inl ⟨rfl, hs⟩
  case rdPos =>
    obtain ⟨-, ⟨_, hsel, rfl⟩ | ⟨hsel, rfl⟩⟩ := exec_rdPos_next.mp h
    · exact .inl ⟨by simp [raisesFault, Instr.selLegal, legalSel_eq_isSome, hsel], hs⟩
    · exact .inr (by simp [raisesFault, Instr.selLegal, legalSel_eq_isSome, hsel, faultedWith])
  case rdSpeed =>
    obtain ⟨-, ⟨_, hsel, rfl⟩ | ⟨hsel, rfl⟩⟩ := exec_rdSpeed_next.mp h
    · exact .inl ⟨by simp [raisesFault, Instr.selLegal, legalSel_eq_isSome, hsel], hs⟩
    · exact .inr (by simp [raisesFault, Instr.selLegal, legalSel_eq_isSome, hsel, faultedWith])
  case rdKey => obtain ⟨-, rfl⟩ := exec_rdKey_next.mp h; exact .inl ⟨rfl, hs⟩
  case setDuty =>
    obtain ⟨-, ⟨_, hsel, rfl⟩ | ⟨hsel, rfl⟩⟩ := exec_setDuty_next.mp h
    · exact .inl ⟨by simp [raisesFault, Instr.selLegal, legalSel_eq_isSome, hsel], hs⟩
    · exact .inr (by simp [raisesFault, Instr.selLegal, legalSel_eq_isSome, hsel, faultedWith])
  case pwmInit =>
    obtain ⟨-, ⟨hnew, rfl⟩ | ⟨hdone, rfl⟩⟩ := exec_pwmInit_next.mp h
    · exact .inl ⟨hnew, hs⟩
    · exact .inr ⟨hdone, rfl⟩
  case setIe => obtain ⟨-, rfl⟩ := exec_setIe_next.mp h; exact .inl ⟨rfl, hs⟩
  case rdStatus => obtain ⟨-, rfl⟩ := exec_rdStatus_next.mp h; exact .inl ⟨rfl, hs⟩
  case rdEvents => obtain ⟨-, rfl⟩ := exec_rdEvents_next.mp h; exact .inl ⟨rfl, hs⟩

/-- Settles O14. -/
theorem faultsDiscardEveryWrite : Obligations.FaultsDiscardEveryWrite := by
  unfold Obligations.FaultsDiscardEveryWrite
  intro i s t h
  rcases exec_runs_or_faults h with ⟨hraise, hnone⟩ | ⟨hraise, hrecord⟩
  · simp [hraise, hnone]
  · have hfault : t.fault ≠ none := by simp [hrecord, faultedWith]
    exact ⟨iff_of_true hfault hraise, fun _ => hrecord⟩

/-! ## When the services run (R244) -/

section pending
variable {i : Instr} {s t : State}

theorem exec_keeps_pcPend (hi : i ≠ .svcPort) (h : exec i s = .next t) (hset : s.pcPend = true) : t.pcPend = true := by
  rcases (exec_writtenAsListed h).pcPend with hkept | ⟨v, rfl⟩ | rfl
  · rw [hkept, hset]
  · obtain ⟨-, rfl⟩ := exec_evPins_next.mp h
    simp [hset]
  · exact absurd rfl hi

theorem svcTick_steps_iff (hfault : s.fault = none) :
    (∃ t, exec .svcTick s = .next t) ↔ s.tmrPend = true ∧ s.ie = true := by
  simp [exec_svcTick_next, hfault]

theorem svcPort_steps_iff (hfault : s.fault = none) :
    (∃ t, exec .svcPort s = .next t) ↔ s.pcPend = true ∧ s.ie = true := by
  simp [exec_svcPort_next, hfault]

end pending

/-- Settles O13: a masked step is not a service, and only its service clears a pending flag. -/
theorem servicesAreEnabledExactlyWhenPendingAndUnmasked :
    Obligations.ServicesAreEnabledExactlyWhenPendingAndUnmasked := by
  unfold Obligations.ServicesAreEnabledExactlyWhenPendingAndUnmasked
  refine ⟨fun s hfault => ⟨svcTick_steps_iff hfault, svcPort_steps_iff hfault⟩, fun i s t hie h => ?_⟩
  have notTick : i ≠ .svcTick := by rintro rfl; exact Bool.false_ne_true (hie.symm.trans (svcTick_not_masked h))
  have notPort : i ≠ .svcPort := by rintro rfl; exact Bool.false_ne_true (hie.symm.trans (svcPort_not_masked h))
  exact ⟨exec_keeps_tmrPend notTick h, exec_keeps_pcPend notPort h⟩

/-! ## Two pending services (R245) -/

section order
variable {s t : State}

/-- The tick first: it leaves the port's pending flag, the pins and the mask alone. -/
theorem execAll_tick_port (hfault : s.fault = none) (htmr : s.tmrPend = true) (hpc : s.pcPend = true) (hie : s.ie = true) :
    execAll [.svcTick, .svcPort] s = .next t ↔ t = portService s.portPins (tickService s) := by
  simp [execAll_cons, execAll_nil, exec_svcTick_next, exec_svcPort_next, hfault, htmr, hpc, hie]

/-- The port first: it leaves the timer's pending flag and the mask alone. -/
theorem execAll_port_tick (hfault : s.fault = none) (htmr : s.tmrPend = true) (hpc : s.pcPend = true) (hie : s.ie = true) :
    execAll [.svcPort, .svcTick] s = .next t ↔ t = tickService (portService s.portPins s) := by
  simp [execAll_cons, execAll_nil, exec_svcTick_next, exec_svcPort_next, hfault, htmr, hpc, hie]

/-- Without a key change the port service writes three registers only. -/
theorem portService_of_same_key {snap : Half} (hkey : keyBit s.cfg snap = s.rawLevel) :
    portService snap s =
      { s with
        position := (portService snap s).position
        prevState := (portService snap s).prevState
        pcPend := false } := by
  simp [portService, quadDecode, debounceRaw, hkey]

/-- Without a speed sample the tick service neither reads nor writes those three registers. -/
theorem tickService_with_wheels (hsample : (s.tick + 1) % s.cfg.tickModulus % s.cfg.div100ms ≠ 0)
    (position : Two Half) (prevState : Two (BitVec 2)) (pending : Bool) :
    tickService { s with position := position, prevState := prevState, pcPend := pending } =
      { tickService s with position := position, prevState := prevState, pcPend := pending } := by
  have hdebounce : debounceTick { s with position := position, prevState := prevState, pcPend := pending } =
      { debounceTick s with position := position, prevState := prevState, pcPend := pending } := by
    unfold debounceTick
    dsimp only
    split_ifs <;> rfl
  obtain ⟨hdb, hstable, hcount, hpress⟩ := tickService_debounce s
  obtain ⟨hdb', hstable', hcount', hpress'⟩ :=
    tickService_debounce { s with position := position, prevState := prevState, pcPend := pending }
  rw [hdebounce] at hdb' hstable' hcount' hpress'
  ext1 <;> simp [*]

/-- The wheels are decoded the same after a tick service, which writes nothing that the decoding reads. -/
theorem portService_tickService_wheels (snap : Half) (s : State) :
    (portService snap (tickService s)).position = (portService snap s).position ∧
      (portService snap (tickService s)).prevState = (portService snap s).prevState := by
  constructor <;> refine Two.ext_get fun w => ?_
  · simp [portService_position_get]
  · simp [portService_prevState_get]

/-- The services commute where the port service has nothing to tell the key and the tick service reads no position. -/
theorem services_commute {snap : Half} (hkey : keyBit s.cfg snap = s.rawLevel)
    (hsample : (s.tick + 1) % s.cfg.tickModulus % s.cfg.div100ms ≠ 0) :
    portService snap (tickService s) = tickService (portService snap s) := by
  obtain ⟨hposition, hprev⟩ := portService_tickService_wheels snap s
  calc portService snap (tickService s)
      = { tickService s with
          position := (portService snap s).position
          prevState := (portService snap s).prevState
          pcPend := false } := by
        rw [portService_of_same_key (s := tickService s) (by simpa using hkey), hposition, hprev]
    _ = tickService { s with
          position := (portService snap s).position
          prevState := (portService snap s).prevState
          pcPend := false } := (tickService_with_wheels hsample _ _ _).symm
    _ = tickService (portService snap s) := by rw [← portService_of_same_key hkey]

end order

/-- Settles O57. -/
theorem eitherServiceMayRunFirst : Obligations.EitherServiceMayRunFirst := by
  unfold Obligations.EitherServiceMayRunFirst
  intro s hfault htmr hpc hie
  refine ⟨?tickFirst, ?portFirst, fun hkey hsample t => ?sameEnd⟩
  case tickFirst =>
    obtain ⟨t, ht, hrest⟩ := execAll_cons.mp ((execAll_tick_port hfault htmr hpc hie).mpr rfl)
    obtain ⟨u, hu, -⟩ := execAll_cons.mp hrest
    exact ⟨t, u, ht, hu⟩
  case portFirst =>
    obtain ⟨t, ht, hrest⟩ := execAll_cons.mp ((execAll_port_tick hfault htmr hpc hie).mpr rfl)
    obtain ⟨u, hu, -⟩ := execAll_cons.mp hrest
    exact ⟨t, u, ht, hu⟩
  case sameEnd =>
    rw [execAll_tick_port hfault htmr hpc hie, execAll_port_tick hfault htmr hpc hie, services_commute hkey hsample]

/-! ## Fairness (R247) -/

section fairness
variable {st : Nat → State} {op : Nat → Instr} {svc : Instr} {pend : State → Bool} {n : Nat}

/-- A source that only `svc` clears is served by some point or still pending at it. -/
theorem served_or_still_pending (hsteps : ∀ m, exec (op m) (st m) = .next (st (m + 1)))
    (hkeeps : ∀ {i : Instr} {s t : State}, i ≠ svc → exec i s = .next t → pend s = true → pend t = true)
    (hpend : pend (st n) = true) {m : Nat} (hm : n ≤ m) :
    (∃ k, n ≤ k ∧ op k = svc ∧ pend (st k) = true) ∨ pend (st m) = true := by
  induction m, hm using Nat.le_induction with
  | base => exact .inr hpend
  | succ m hm ih =>
    rcases ih with hserved | hstill
    · exact .inl hserved
    · by_cases hop : op m = svc
      · exact .inl ⟨m, hm, hop, hstill⟩
      · exact .inr (hkeeps hop (hsteps m) hstill)

/-- A pending source whose service is enabled while it pends is served: fairness rules out that it pends for ever. -/
theorem served_of_fair (hsteps : ∀ m, exec (op m) (st m) = .next (st (m + 1)))
    (hkeeps : ∀ {i : Instr} {s t : State}, i ≠ svc → exec i s = .next t → pend s = true → pend t = true)
    (henabled : ∀ m, n ≤ m → pend (st m) = true → enabled svc (st m) = true)
    (hfair : ∃ m, n ≤ m ∧ (op m = svc ∨ enabled svc (st m) = false)) (hpend : pend (st n) = true) :
    ∃ m, n ≤ m ∧ op m = svc ∧ pend (st m) = true := by
  obtain ⟨m, hm, hturn⟩ := hfair
  rcases served_or_still_pending hsteps hkeeps hpend hm with hserved | hstill
  · exact hserved
  · rcases hturn with hop | hdisabled
    · exact ⟨m, hm, hop, hstill⟩
    · exact absurd (henabled m hm hstill) (by simp [hdisabled])

end fairness

/-- Settles O59: a state of a run holds no fault, so a pending and unmasked service is enabled; its step clears its flag. -/
theorem fairRunsServePendingSources : Obligations.FairRunsServePendingSources := by
  unfold Obligations.FairRunsServePendingSources
  intro st op hostHasMore run n hie
  have hfault (m : Nat) : (st m).fault = none := exec_next_fault (run.steps m)
  refine ⟨fun hpend => ?timer, fun hpend => ?port⟩
  case timer =>
    obtain ⟨m, hm, hop, hset⟩ := served_of_fair (svc := .svcTick) (pend := State.tmrPend) run.steps exec_keeps_tmrPend
      (fun m hm hset => by simp [enabled, hfault, hset, hie m hm]) (run.tickServed n) hpend
    obtain ⟨-, -, -, hnext⟩ := exec_svcTick_next.mp (hop ▸ run.steps m)
    exact ⟨m, hm, hop, hset, by rw [hnext, tickService_tmrPend]⟩
  case port =>
    obtain ⟨m, hm, hop, hset⟩ := served_of_fair (svc := .svcPort) (pend := State.pcPend) run.steps exec_keeps_pcPend
      (fun m hm hset => by simp [enabled, hfault, hset, hie m hm]) (run.portServed n) hpend
    obtain ⟨-, -, -, hnext⟩ := exec_svcPort_next.mp (hop ▸ run.steps m)
    exact ⟨m, hm, hop, hset, by rw [hnext, portService_pcPend]⟩

end Sys2Proof.Machine
end

section
/-! Reset and hazards (70_reset_and_hazards.md): the values at power-on and the operations enabled there, what a run keeps
until its first port service, and what that service then finds. -/

namespace Sys2Proof.Machine

/-! ## Power-on (R270, R271) -/

theorem Two.get_pair {α : Type} (v : α) (w : Ident) : (Two.mk v v).get w = v := by cases w <;> rfl

/-- The flags, the levels and the enable bit all start cleared, and the debounce machine is not `Bouncing` (R222, R270). -/
theorem statusWord_powerOn (c : Config) (pins : Half) : statusWord (State.powerOn c pins) = 0x0000#16 := by
  have hfields : statusFields (State.powerOn c pins) = List.replicate 16 false := rfl
  refine BitVec.eq_of_getLsbD_eq fun i hi => ?_
  rw [getLsbD_statusWord, hfields, BitVec.getLsbD_zero]
  exact List.getD_replicate false hi

/-- Settles O30: the rows of R270 as `State.powerOn` lists them, a pair of registers for each wheel and channel. -/
theorem powerOnValues : Obligations.PowerOnValues := by
  unfold Obligations.PowerOnValues
  intro c pins s
  have hstatus : exec .rdStatus s = .next { s with returned := [0x0000#16] } :=
    exec_rdStatus_next.mpr ⟨rfl, by rw [statusWord_powerOn]; rfl⟩
  refine ⟨rfl, rfl, rfl, rfl, rfl, rfl, rfl, rfl, rfl, rfl, rfl, rfl, rfl, Two.get_pair _, Two.get_pair _,
    Two.get_pair _, rfl, rfl, rfl, Two.get_pair _, Two.get_pair _, rfl, rfl, rfl, hstatus⟩

/-- Settles O31: nothing pends and no PWM_INIT has run, which shuts out the two services and the carrier timer; no other
operation has a condition. -/
theorem operationsEnabledAtReset : Obligations.OperationsEnabledAtReset := by
  unfold Obligations.OperationsEnabledAtReset
  intro c pins i
  cases i
  case svcTick | svcPort | evPwmCycle => exact iff_of_false Bool.false_ne_true (by simp [Instr.agent])
  all_goals exact iff_of_true rfl (by simp [Instr.agent])

/-! ## Until the first port service (R283, R284) -/

section untilService
variable {ops : List Instr} {s t : State}

/-- No operation but a port service counts, or moves the state last serviced. -/
theorem execAll_keeps_wheel (hops : Instr.svcPort ∉ ops) (h : execAll ops s = .next t) :
    t.prevState = s.prevState ∧ t.position = s.position := by
  refine execAll_keeps_of_mem (P := fun u => u.prevState = s.prevState ∧ u.position = s.position) ?_ h ⟨rfl, rfl⟩
  rintro i hmem u v hstep ⟨hprev, hposition⟩
  obtain ⟨hkeptPrev, hkeptPosition⟩ := exec_keeps_wheel (ne_of_mem_of_not_mem hmem hops) hstep
  exact ⟨hkeptPrev.trans hprev, hkeptPosition.trans hposition⟩

theorem SameDebounce.refl (s : State) : SameDebounce s s := ⟨rfl, rfl, rfl, rfl, rfl⟩

theorem SameDebounce.trans {u : State} (h : SameDebounce s t) (h' : SameDebounce t u) : SameDebounce s u :=
  ⟨h'.cfg.trans h.cfg, h'.dbState.trans h.dbState, h'.rawLevel.trans h.rawLevel, h'.stableLevel.trans h.stableLevel,
    h'.countdown.trans h.countdown⟩

/-- Only a port service wakes a debounce machine that is not counting: a tick finds nothing to do (R141, R142). -/
theorem exec_keeps_resting_debounce {i : Instr} (hi : i ≠ .svcPort) (h : exec i s = .next t)
    (hrest : s.dbState ≠ .bouncing) : SameDebounce s t := by
  by_cases htick : i = .svcTick
  · subst htick
    have hsame := exec_svcTick_debounce h
    rwa [debounceTick_of_not_bouncing hrest] at hsame
  · exact exec_keeps_debounce htick h ((exec_writtenAsListed h).rawLevel.resolve_right hi)

theorem execAll_keeps_resting_debounce (hops : Instr.svcPort ∉ ops) (h : execAll ops s = .next t)
    (hrest : s.dbState ≠ .bouncing) : SameDebounce s t := by
  refine execAll_keeps_of_mem (P := SameDebounce s) ?_ h (.refl s)
  intro i hmem u v hstep hsame
  have hrest' : u.dbState ≠ .bouncing := hsame.dbState ▸ hrest
  exact hsame.trans (exec_keeps_resting_debounce (ne_of_mem_of_not_mem hmem hops) hstep hrest')

end untilService

/-! ## The wheels at the first port service (R283) -/

/-- Row 0 of the decode table: the count of a wheel state that no motion led to (R164, R283). -/
theorem ofInt_qtab_zero (cur : BitVec 2) :
    BitVec.ofInt 16 (qtab 0#2 cur) = if cur = 1#2 then -1#16 else if cur = 2#2 then 1#16 else 0#16 := by
  revert cur
  decide

/-- Settles O48: the wheel's registers are still 0 when the service adds its count. -/
theorem firstServiceCountsFromZero : Obligations.FirstServiceCountsFromZero := by
  unfold Obligations.FirstServiceCountsFromZero
  intro c pins ops s t w hops h hport
  obtain ⟨hprev, hposition⟩ := execAll_keeps_wheel hops h
  obtain ⟨-, -, hcount⟩ := exec_svcPort_wheel w hport
  have hshown : shownState w s = wheelState c w s.portPins := by rw [shownState, cfg_of_execAll h]; rfl
  have hprev0 : s.prevState.get w = 0#2 := by rw [hprev]; exact Two.get_pair _ w
  have hposition0 : s.position.get w = 0#16 := by rw [hposition]; exact Two.get_pair _ w
  rw [hcount, hprev0, hposition0, BitVec.zero_add, hshown, ofInt_qtab_zero]

/-! ## The key at the first port service (R284) -/

/-- An active stable level has its press edge recorded: true of a machine at rest on the inactive level, and until an RD_KEY
takes the edge. -/
def PressRecorded (s : State) : Prop := s.stableLevel = s.cfg.keyActiveLevel → s.pressEvent = true

/-- The promotion that makes the stable level active records the edge, and only RD_KEY clears the record (R141, R143). -/
theorem exec_keeps_pressRecorded {i : Instr} {s t : State} (hi : i ≠ .rdKey) (h : exec i s = .next t)
    (hrec : PressRecorded s) : PressRecorded t := by
  intro hactive
  rw [(exec_keeps_cfg_trace h).1] at hactive
  by_cases hbefore : s.stableLevel = s.cfg.keyActiveLevel
  · exact exec_keeps_pressEvent hi h (hrec hbefore)
  · obtain rfl : i = .svcTick := (exec_writtenAsListed h).stableLevel.resolve_left fun hkept => hbefore (hkept ▸ hactive)
    obtain ⟨-, -, -, rfl⟩ := exec_svcTick_next.mp h
    obtain ⟨-, hs, -, hp⟩ := tickService_debounce s
    obtain ⟨hs', hp', -⟩ := debounceTick_promotion s
    rw [hs, hs'] at hactive
    split_ifs at hactive with hpromoting
    · simp [hp, hp', hpromoting, hactive, hbefore]
    · exact absurd hactive hbefore

/-- Before the last of its `DEBOUNCE_TICKS` the machine counts. -/
theorem SettlingAfter.counts {v old : Bool} {k : Nat} {s : State} (h : SettlingAfter v old k s)
    (hlt : k < s.cfg.debounceTicks) :
    s.stableLevel = old ∧ s.dbState = .bouncing ∧ s.countdown.toNat = s.cfg.debounceTicks - k := by
  cases h with
  | counting _ _ stable db count => exact ⟨stable, db, count⟩
  | settled after => exact absurd after hlt.not_ge

/-- From the last of its `DEBOUNCE_TICKS` on the machine has settled. -/
theorem SettlingAfter.has_settled {v old : Bool} {k : Nat} {s : State} (h : SettlingAfter v old k s)
    (hle : s.cfg.debounceTicks ≤ k) :
    s.stableLevel = v ∧ s.dbState = if v = s.cfg.keyActiveLevel then .pressed else .idle := by
  cases h with
  | counting before => exact absurd before hle.not_gt
  | settled _ _ stable db => exact ⟨stable, db⟩

section heldKey
variable {c : Config} {pins : Half} {ops : List Instr} {s t : State}

/-- The levels are still 0 at the first service, which therefore sees a change to the level 1. -/
theorem firstService_starts_countdown (hadm : c.admissible = true) (hops : Instr.svcPort ∉ ops)
    (h : execAll ops (State.powerOn c pins) = .next s) (hkey : keyBit c s.portPins = true)
    (hport : exec .svcPort s = .next t) : t.cfg = c ∧ SettlingAfter true false 0 t := by
  have hrest : SameDebounce (State.powerOn c pins) s := execAll_keeps_resting_debounce hops h nofun
  have hcfg : s.cfg = c := hrest.cfg
  have hraw : t.rawLevel = true := by
    obtain ⟨-, -, -, rfl⟩ := exec_svcPort_next.mp hport
    rw [portService_rawLevel, hcfg, hkey]
  have hstable : t.stableLevel = false :=
    ((exec_writtenAsListed hport).stableLevel.resolve_right (by simp)).trans hrest.stableLevel
  have hchange : s.rawLevel ≠ t.rawLevel := by
    rw [hrest.rawLevel, hraw]
    exact Bool.false_ne_true
  have hstart := SettlingAfter.start (hcfg ▸ hadm) hport hchange
  rw [hraw, hstable] at hstart
  exact ⟨(exec_keeps_cfg_trace hport).1.trans hcfg, hstart⟩

end heldKey

/-- Settles O49: the first service starts the countdown, the machine settles on the level 1 (R144), and the promotion to it
records the edge. -/
theorem keyHeldAtResetIsReportedAsAPress : Obligations.KeyHeldAtResetIsReportedAsAPress := by
  unfold Obligations.KeyHeldAtResetIsReportedAsAPress
  intro c pins ops s t hadm hops h hkey hport
  obtain ⟨rfl, hstart⟩ := firstService_starts_countdown hadm hops h hkey hport
  obtain ⟨-, -, ⟨hlow, -⟩, -⟩ := t.cfg.admissible_iff_everyBullet.mp hadm
  obtain ⟨hstable, hdb, hcount⟩ := hstart.counts hlow
  refine ⟨hdb, hstart.rawLevel, hcount, fun later u hlevel hrun halong hkeyread hticks => ?_⟩
  have hcfg : u.cfg = t.cfg := cfg_of_execAll hrun
  have hinactive : PressRecorded t := fun hactive => by simp [hstable, hlevel] at hactive
  have hrecorded : PressRecorded u :=
    execAll_keeps_of_mem (fun _ hmem _ _ => exec_keeps_pressRecorded (ne_of_mem_of_not_mem hmem hkeyread)) hrun hinactive
  have hactive : true = u.cfg.keyActiveLevel := by rw [hcfg, hlevel]
  obtain ⟨hstable', hdb'⟩ := (hstart.run hrun halong).has_settled (by rw [hcfg, Nat.zero_add]; exact hticks)
  rw [if_pos hactive] at hdb'
  exact ⟨hrecorded (hstable'.trans hactive), hdb'⟩

end Sys2Proof.Machine
end
